-- ==== Sys2Proof/Word.lean ====
section
/-! DEFINITION. The plain number types of the TQ-18: bytes on the links, and the bounded names and numbers of chapter 0.5. -/

namespace Sys2Proof

/-- One byte of a link frame (section 12.6). -/
abbrev Byte := BitVec 8

/-- A group number, 0 to 5 (section 0.5). -/
abbrev GroupNo := Fin 6

/-- A car number within its group, 0 to 7 (section 0.5). -/
abbrev CarNo := Fin 8

/-- A car name g.c, numbered g × 8 + c as on the panel link (R21, R162). -/
abbrev CarName := Fin 48

/-- A landing, 0 to 127 (section 0.5). -/
abbrev Landing := Fin 128

end Sys2Proof
end

