-- ==== Sys2Proof/Syntax.lean ====
section
/-! DEFINITION. The commands of the TQ-18: one constructor of Instr per row of spec/opcode_table.json. A message command carries
the bytes of its payload (section 12.6), so that the value handling of R23, R55, R111, R160, R161 and R162 is the machine's. -/

namespace Sys2Proof

/-- The links that have a state and a silence timer (R159). -/
inductive LinkId where
  | group (g : GroupNo)
  | power
  | panel
  deriving DecidableEq, Repr

/-- Where a frame travels: a link, or the maintenance port, which has no link state (R159). -/
inductive Port where
  | link (l : LinkId)
  | maintenance
  deriving DecidableEq, Repr

/-- The ten payload bytes of a STATUS (section 12.6). -/
structure StatusBytes where
  car : Byte
  position : Byte
  flags : Byte
  door : Byte
  load : Byte
  modeDir : Byte
  destination : Byte
  carCalls : Byte
  faultCode : Byte
  sequence : Byte
  deriving DecidableEq, Repr

/-- The seven payload bytes of a PROFILE (section 12.6). -/
structure ProfileBytes where
  mode : Byte
  settleA : Byte
  openA : Byte
  settleB : Byte
  openB : Byte
  stepPercent : Byte
  overloadPercent : Byte
  deriving DecidableEq, Repr

/-- The commands, in the order of the table. -/
inductive Instr where
  /-- DEVICE_RESET (R1): power-on or the RESET line. -/
  | deviceReset
  /-- STATUS (R24), on group link g. -/
  | status (g : GroupNo) (r : StatusBytes)
  /-- REQUEST (R85): car, destination landing. -/
  | request (g : GroupNo) (car dest : Byte)
  /-- WITHDRAW (R86): car. -/
  | withdraw (g : GroupNo) (car : Byte)
  /-- STARTED (R124): car. -/
  | started (g : GroupNo) (car : Byte)
  /-- ARRIVED (R126): car, landing. -/
  | arrived (g : GroupNo) (car landing : Byte)
  /-- HALTED (R127): car, landing or 255, cause. -/
  | halted (g : GroupNo) (car landing cause : Byte)
  /-- SOURCE (R2): source state, transition kind. -/
  | source (state kind : Byte)
  /-- CAPACITY (R55): offered and absorb figures, kW. -/
  | capacity (offered absorb : BitVec 16)
  /-- PROFILE (R111). -/
  | profile (p : ProfileBytes)
  /-- SELECT (R147): group, selection. -/
  | select (group selection : Byte)
  /-- BLOCK (R139): group, landing. -/
  | block (group landing : Byte)
  /-- UNBLOCK (R139): group, landing. -/
  | unblock (group landing : Byte)
  /-- RESTART (R119): restart number. -/
  | restart (number : Byte)
  /-- RETRY (R144): car name. -/
  | retry (car : Byte)
  /-- TABLE_WRITE (R163): section number, then the section's values. -/
  | tableWrite (sectionNo : Byte) (values : List Byte)
  /-- TABLE_COMMIT (R164): a value of 0. -/
  | tableCommit (value : Byte)
  /-- TABLE_READ (R163): section number, source. -/
  | tableRead (sectionNo from_ : Byte)
  /-- DROPPED_FRAME (R158): the bytes of one attempt of a receiver, from the sync byte on. -/
  | droppedFrame (port : Port) (bytes : List Byte)
  /-- SILENCE_TIMER_EXPIRY (R159), of one link. -/
  | silenceTimerExpiry (l : LinkId)
  /-- STRAIN_ASSERTED (R114). -/
  | strainAsserted
  /-- STRAIN_RELEASED (R114). -/
  | strainReleased
  /-- TRIP_ASSERTED (R120). -/
  | tripAsserted
  /-- TRIP_RELEASED (R121). -/
  | tripReleased
  /-- FILTER_TIMER_EXPIRY (R114). -/
  | filterTimerExpiry
  /-- BLANKING_TIMER_EXPIRY (R115). -/
  | blankingTimerExpiry
  /-- STANDBY_SETTLE_EXPIRY (R14). -/
  | standbySettleExpiry
  /-- COLLECTION_TIMER_EXPIRY (R16). -/
  | collectionTimerExpiry
  /-- PRE_TRANSFER_TIMER_EXPIRY (R153). -/
  | preTransferTimerExpiry
  /-- CLEAR (R152): one evaluation of the CLEAR condition. -/
  | clear
  /-- ACCOUNT_TICK (R71). -/
  | accountTick
  /-- WINDOW_TIMER_EXPIRY (R78). -/
  | windowTimerExpiry
  /-- SETTLE_A_EXPIRY (R106). -/
  | settleAExpiry
  /-- OPEN_A_EXPIRY (R107). -/
  | openAExpiry
  /-- SETTLE_B_EXPIRY (R107). -/
  | settleBExpiry
  /-- OPEN_B_EXPIRY (R107). -/
  | openBExpiry
  /-- ADMISSION (R108): one admission attempt. -/
  | admission
  /-- GRANT (R93): one selection. -/
  | grant
  /-- START_TIMER_EXPIRY (R125), of one car's permit. -/
  | startTimerExpiry (n : CarName)
  /-- RUN_TIMER_EXPIRY (R129), of one car's permit. -/
  | runTimerExpiry (n : CarName)
  /-- GRACE_TIMER_EXPIRY (R130), of one car's permit. -/
  | graceTimerExpiry (n : CarName)
  /-- DWELL_TIMER_EXPIRY (R145), of one car. -/
  | dwellTimerExpiry (n : CarName)
  deriving DecidableEq, Repr

end Sys2Proof
end

