-- ==== Sys2Proof/Machine/Types.lean ====
section
/-! DEFINITION. The enumerations and small records that State, the site table and the messages are made of. -/

namespace Sys2Proof.Machine

/-- Source phase (R1). -/
inductive Phase where
  | startup | normal | outage | takeover | recall | service | preTransfer
  deriving DecidableEq, Repr

/-- The phases that can be left for PRE_TRANSFER and remembered (R1). -/
inductive Remembered where
  | normal | takeover | recall | service
  deriving DecidableEq, Repr

/-- Source state of a SOURCE message (R2). -/
inductive SourceState where
  | normal | lost | standby | preTransfer | transferAbort
  deriving DecidableEq, Repr

/-- Transition kind, OPEN or CLOSED (R2). -/
inductive TransKind where
  | openTransition | closedTransition
  deriving DecidableEq, Repr

/-- Stage of the takeover sequence (R1, R14). -/
inductive TakeoverStage where
  | settling | collecting
  deriving DecidableEq, Repr

/-- Window state (R69). -/
inductive Window where
  | noWindow | recallWindow | serviceWindow
  deriving DecidableEq, Repr

/-- Door state of a car (R21). -/
inductive Door where
  | closed | opening | opened | closing | unknown
  deriving DecidableEq, Repr

/-- Direction of a car (R21). -/
inductive Direction where
  | still | up | down
  deriving DecidableEq, Repr

/-- Out reason (R30). -/
inductive OutReason where
  | fault | link | runTimeout | silent | unpowered
  deriving DecidableEq, Repr

/-- Motion state of a car; OUT carries its out reason, which exists exactly while the car is OUT (R21, R30). -/
inductive Motion where
  | still | requested | granted | starting | running | stopping | stranded
  | out (r : OutReason)
  deriving DecidableEq, Repr

/-- Recovery step (R136). -/
inductive RecoveryStep where
  | normal | awaiting | recallDue | recalling | dwell | parked | shut | service | givenUp
  deriving DecidableEq, Repr

/-- Owner of a car (R32). -/
inductive Owner where
  | group | sequencer | nobody
  deriving DecidableEq, Repr

/-- Run class (R82). -/
inductive RunClass where
  | fire | recall | service
  deriving DecidableEq, Repr

/-- Run kind (R41). -/
inductive Kind where
  | motor | regen
  deriving DecidableEq, Repr

/-- Park doors setting (R136). -/
inductive Doors where
  | opened | closed
  deriving DecidableEq, Repr

/-- A standing order (R34). OPEN_DWELL holds a remaining time in units of 50 ms; while the dwell timer runs the timer is read instead. -/
inductive Order where
  | stay
  | openDwell (remaining : Nat)
  | park (doors : Doors)
  | shut
  | powerUp
  | release
  deriving DecidableEq, Repr

/-- The kinds an ORDER message carries (R160). -/
inductive OrderKind where
  | stay | stopNext | stopNow | openDwell | park | shut | powerUp | release
  deriving DecidableEq, Repr

/-- Saved context and capture image: the five fields of R7 and R36. -/
structure Context where
  mode : BitVec 4
  direction : Direction
  destination : Option Landing
  door : Door
  carCalls : Nat
  deriving DecidableEq, Repr

/-- Run actions that leave a pending action record (R38). CANCEL leaves none. -/
inductive ActionKind where
  | complete | curtail | abandon
  deriving DecidableEq, Repr

/-- Follow-up flags of a pending action record (R38). -/
structure FollowUps where
  parkAfter : Bool
  reclaimAfter : Bool
  rerequestAfter : Bool
  deriving DecidableEq, Repr

/-- A pending action record (R38). The run's class and destination are kept beside it, because R133 reads the class at an
at-rest STATUS after an ABANDON has discarded the permit. -/
structure PendingAction where
  kind : ActionKind
  flags : FollowUps
  cls : RunClass
  destination : Option Landing
  deriving DecidableEq, Repr

/-- A permit (R37) with its origin record (R81) and the serial number of its grant, which orders two grants of one tenth of a
second (R66). A locate permit is one whose destination is none (R46). Grant time and origin are in tenths of a second. -/
structure Permit where
  cls : RunClass
  kind : Kind
  demand : Nat
  start : Nat
  units : Nat
  groupCharge : Nat
  serviceCharge : Nat
  destination : Option Landing
  floors : Nat
  grantTime : Nat
  origin : Nat
  serial : Nat
  deriving DecidableEq, Repr

/-- GRACE cause (R122). -/
inductive GraceCause where
  | runTimeout | linkLost
  deriving DecidableEq, Repr

/-- State of an admitted permit with the end time of the timer it carries (R122). -/
inductive RunState where
  | startedWait (ends : Nat)
  | running (ends : Nat)
  | grace (cause : GraceCause) (ends : Nat)
  deriving DecidableEq, Repr

/-- An admitted permit, standing in its car's live-permit field, with the run limit written at admission (R123), in tenths. -/
structure Run where
  permit : Permit
  limit : Nat
  state : RunState
  deriving DecidableEq, Repr

/-- A permit in the start queue or the deferral slot, with its car (R37, R98). -/
structure Waiting where
  car : CarName
  permit : Permit
  deriving DecidableEq, Repr

/-- A request-list entry (R82). The locate flag is set exactly when the destination is none. Arrival is in tenths of a second. -/
structure Entry where
  car : CarName
  cls : RunClass
  destination : Option Landing
  trapped : Bool
  arrival : Nat
  deriving DecidableEq, Repr

/-- Kinds of service-set member (R147). -/
inductive Member where
  | ordinary | fireReleased | powering
  deriving DecidableEq, Repr

/-- A shed credit of the car that holds it: side and amount (R54, R65). -/
structure Credit where
  side : Kind
  amount : Nat
  deriving DecidableEq, Repr

/-- Over-commitment episode mark; an open episode records whether OVERCOMMIT has been sent in it (R54, R64). -/
inductive Episode where
  | closed
  | opened (alerted : Bool)
  deriving DecidableEq, Repr

/-- Pacer state (R98). -/
inductive PacerState where
  | halted | settleA | openA | settleB | openB | hold | waitRestart
  deriving DecidableEq, Repr

/-- Pace mode (R111). -/
inductive PaceMode where
  | unified | split
  deriving DecidableEq, Repr

/-- A pace profile (R111). Durations are in tenths of a second. -/
structure Profile where
  mode : PaceMode
  settleA : Nat
  openA : Nat
  settleB : Nat
  openB : Nat
  stepPercent : Nat
  overloadPercent : Nat
  deriving DecidableEq, Repr

/-- Strain mode (R113). -/
inductive StrainMode where
  | note | hold | holdShed | operator
  deriving DecidableEq, Repr

/-- Pre-emption mode (R95). -/
inductive PreemptMode where
  | off | queued | running
  deriving DecidableEq, Repr

/-- Panel selection of a group (R136). -/
inductive Selection where
  | auto
  | car (c : CarNo)
  | nobody
  deriving DecidableEq, Repr

/-- HALTED cause (R160). -/
inductive HaltCause where
  | safety | door | power | other
  deriving DecidableEq, Repr

/-- Cause of a GIVEN_UP alert (R142). -/
inductive FailCause where
  | halted (c : HaltCause)
  | noStart
  | runTimeout
  deriving DecidableEq, Repr

/-- REFUSE reason (R160). -/
inductive RefuseReason where
  | phase | noCar | notOwner | badLanding | busy | out | noStart | cancelled
  deriving DecidableEq, Repr

/-- REFUSED reason (R162). -/
inductive RefusedReason where
  | noGroup | noCar | noLanding | full | phase | notGivenUp
  deriving DecidableEq, Repr

/-- Maintenance reason (section 12.6). -/
inductive TableReason where
  | format | phase | range | noGroup | clipBelowLimit | servedRange | zone | recallLanding | releaseOrder | check
  deriving DecidableEq, Repr

end Sys2Proof.Machine
end

