-- ==== Sys2Proof/Machine/Wire.lean ====
section
/-! DEFINITION. The frame (R158): check, byte order, one receiver's attempt at a frame, and which types and lengths each link takes. -/

namespace Sys2Proof.Machine

/-- The sync byte of every frame (R158). -/
def syncByte : Byte := 0xA5#8

/-- One bit of the CRC-16 with polynomial 0x1021, most significant bit first (R158; the bit order is assumption 9). -/
def crcBit (c : BitVec 16) : BitVec 16 :=
  if c.msb then (c <<< 1) ^^^ 0x1021#16 else c <<< 1

/-- One byte of the CRC-16. -/
def crcByte (c : BitVec 16) (b : Byte) : BitVec 16 :=
  crcBit (crcBit (crcBit (crcBit (crcBit (crcBit (crcBit (crcBit (c ^^^ (b.zeroExtend 16 <<< 8)))))))))

/-- CRC-16 of a run of bytes: initial value 0xFFFF, no final inversion (R158). -/
def crc16 (bytes : List Byte) : BitVec 16 := bytes.foldl crcByte 0xFFFF#16

/-- High byte of a two-byte field; multi-byte fields go high byte first (section 12.3). -/
def highByte (w : BitVec 16) : Byte := (w >>> 8).truncate 8

/-- Low byte of a two-byte field. -/
def lowByte (w : BitVec 16) : Byte := w.truncate 8

/-- The two-byte field whose bytes are hi and lo. -/
def wordOf (hi lo : Byte) : BitVec 16 := hi ++ lo

/-- A quantity as one byte. -/
def byteOf (n : Nat) : Byte := BitVec.ofNat 8 n

/-- A quantity as two bytes, high byte first. -/
def word2 (n : Nat) : List Byte := [highByte (BitVec.ofNat 16 n), lowByte (BitVec.ofNat 16 n)]

/-- A figure that is sent as 65535 when it exceeds 65535 (R161, section 12.6). -/
def word2Sat (n : Nat) : List Byte := word2 (min n 65535)

/-- A flag as one byte: 1 set, 0 clear (section 12.6). -/
def flagByte (b : Bool) : Byte := if b then 1#8 else 0#8

/-- The frame of a message (R158): sync, length, type, payload, CRC-16 of length, type and payload. -/
def frameOf (type : Byte) (payload : List Byte) : List Byte :=
  let body := byteOf payload.length :: type :: payload
  syncByte :: (body ++ [highByte (crc16 body), lowByte (crc16 body)])

/-- What a receiver makes of the bytes that begin at a sync byte (R158). -/
inductive Attempt where
  /-- The bytes do not begin with a sync byte. -/
  | noSync
  /-- The frame is not complete. -/
  | short
  /-- A length of 0 or above 60, or a CRC that does not match. -/
  | bad
  /-- A good frame: its type, its payload, and the bytes after it. -/
  | good (type : Byte) (payload rest : List Byte)
  deriving DecidableEq, Repr

/-- One attempt of a receiver at a frame (R158). -/
def attempt : List Byte → Attempt
  | [] => .noSync
  | [s] => if s = syncByte then .short else .noSync
  | s :: len :: rest =>
    if s ≠ syncByte then .noSync
    else if len.toNat = 0 ∨ 60 < len.toNat then .bad
    else if rest.length < len.toNat + 3 then .short
    else
      let body := rest.take (len.toNat + 1)
      let tail := rest.drop (len.toNat + 1)
      if [highByte (crc16 (len :: body)), lowByte (crc16 (len :: body))] = tail.take 2 then
        .good (body.headD 0#8) (body.drop 1) (tail.drop 2)
      else .bad

/-- The payload lengths that a port takes for a type inward; none for a type it does not accept (sections 12.3 to 12.6). -/
def acceptedLengths (p : Port) (type : Byte) : List Nat :=
  match p with
  | .link (.group _) =>
    if type = 0x10#8 then [10] else if type = 0x11#8 then [2] else if type = 0x12#8 then [1]
    else if type = 0x13#8 then [1] else if type = 0x14#8 then [2] else if type = 0x15#8 then [3] else []
  | .link .power => if type = 0x30#8 then [2] else if type = 0x31#8 then [4] else if type = 0x32#8 then [7] else []
  | .link .panel =>
    if type = 0x40#8 then [2] else if type = 0x41#8 then [2] else if type = 0x42#8 then [2]
    else if type = 0x43#8 then [1] else if type = 0x44#8 then [1] else []
  | .maintenance => if type = 0x50#8 then [9, 31, 44] else if type = 0x51#8 then [1] else if type = 0x52#8 then [2] else []

/-- A good frame that its port hands to a block (R158). -/
def accepts (p : Port) (type : Byte) (payload : List Byte) : Bool :=
  (acceptedLengths p type).contains payload.length

/-- Whether the bytes are one frame that the port drops: a bad frame, or a good one of an unaccepted type or length (R158). -/
def isDropped (p : Port) (bytes : List Byte) : Bool :=
  match attempt bytes with
  | .bad => true
  | .good type payload rest => rest.isEmpty && !accepts p type payload
  | _ => false

/-- Whether the bytes are a good frame (R158); a dropped frame of that kind still counts as good for the silence timer. -/
def isGood (bytes : List Byte) : Bool :=
  match attempt bytes with
  | .good _ _ _ => true
  | _ => false

end Sys2Proof.Machine
end

