-- ==== Sys2Proof/WellFormed.lean ====
section
/-! DEFINITION. Which commands are well formed. Every byte of a payload may take every value (the rules say what each does), so
only lengths and the verdict of the frame check remain to be checked. -/

namespace Sys2Proof

/-- A TABLE_WRITE has one of the three payload lengths of section 12.6; a DROPPED_FRAME is a frame that its port drops (R158). -/
def Instr.wellFormed : Instr → Bool
  | .tableWrite _ values => values.length == 8 || values.length == 30 || values.length == 43
  | .droppedFrame port bytes => Machine.isDropped port bytes
  | .deviceReset | .status _ _ | .request _ _ _ | .withdraw _ _ | .started _ _ | .arrived _ _ _ | .halted _ _ _ _
  | .source _ _ | .capacity _ _ | .profile _ | .select _ _ | .block _ _ | .unblock _ _ | .restart _ | .retry _
  | .tableCommit _ | .tableRead _ _ | .silenceTimerExpiry _ | .strainAsserted | .strainReleased | .tripAsserted
  | .tripReleased | .filterTimerExpiry | .blankingTimerExpiry | .standbySettleExpiry | .collectionTimerExpiry
  | .preTransferTimerExpiry | .clear | .accountTick | .windowTimerExpiry | .settleAExpiry | .openAExpiry
  | .settleBExpiry | .openBExpiry | .admission | .grant | .startTimerExpiry _ | .runTimerExpiry _
  | .graceTimerExpiry _ | .dwellTimerExpiry _ => true

end Sys2Proof
end

