-- ==== Sys2Proof/Decode.lean ====
section
/-! DEFINITION. From bytes to commands. spec/opcode_table.json gives no row any bits, so decodeTableWord spells no command; what the
spec does give is the frame of every inward message (sections 12.3 to 12.6), and decodeFrame and encodeFrame read and write those. -/

namespace Sys2Proof

/-- The table gives bits to no row, so no word spells a command. -/
def decodeTableWord (_nbits _w : Nat) : Option Instr := none

/-- The command that a good frame of an accepted type and length spells on a group link (section 12.3). -/
def decodeGroup (g : GroupNo) (type : Byte) (payload : List Byte) : Option Instr :=
  match payload with
  | [car, position, flags, door, load, modeDir, destination, carCalls, faultCode, sequence] =>
    if type = 0x10#8 then
      some (.status g ⟨car, position, flags, door, load, modeDir, destination, carCalls, faultCode, sequence⟩)
    else none
  | [car, x] =>
    if type = 0x11#8 then some (.request g car x) else if type = 0x14#8 then some (.arrived g car x) else none
  | [car] =>
    if type = 0x12#8 then some (.withdraw g car) else if type = 0x13#8 then some (.started g car) else none
  | [car, landing, cause] => if type = 0x15#8 then some (.halted g car landing cause) else none
  | _ => none

/-- The command that a good frame of an accepted type and length spells on the power link (section 12.4). -/
def decodePower (type : Byte) (payload : List Byte) : Option Instr :=
  match payload with
  | [state, kind] => if type = 0x30#8 then some (.source state kind) else none
  | [oh, ol, ah, al] =>
    if type = 0x31#8 then some (.capacity (Machine.wordOf oh ol) (Machine.wordOf ah al)) else none
  | [mode, sa, oa, sb, ob, sp, ov] =>
    if type = 0x32#8 then some (.profile ⟨mode, sa, oa, sb, ob, sp, ov⟩) else none
  | _ => none

/-- The command that a good frame of an accepted type and length spells on the panel link (section 12.5). -/
def decodePanel (type : Byte) (payload : List Byte) : Option Instr :=
  match payload with
  | [x, y] =>
    if type = 0x40#8 then some (.select x y) else if type = 0x41#8 then some (.block x y)
    else if type = 0x42#8 then some (.unblock x y) else none
  | [x] => if type = 0x43#8 then some (.restart x) else if type = 0x44#8 then some (.retry x) else none
  | _ => none

/-- The command that a good frame of an accepted type and length spells on the maintenance port (section 12.6). A TABLE_WRITE whose payload is
as long as no section's, 9, 31 or 44 bytes, spells none and is dropped unanswered (R158); one as long as another section's is answered with
FORMAT (R163, assumption 66). -/
def decodeMaintenance (type : Byte) (payload : List Byte) : Option Instr :=
  if type = 0x50#8 then
    match payload with
    | sectionNo :: values =>
      if values.length = 8 ∨ values.length = 30 ∨ values.length = 43 then some (.tableWrite sectionNo values) else none
    | [] => none
  else match payload with
    | [value] => if type = 0x51#8 then some (.tableCommit value) else none
    | [sectionNo, from_] => if type = 0x52#8 then some (.tableRead sectionNo from_) else none
    | _ => none

/-- The command of a good frame, by the port it travels on (R158). -/
def decodeMessage (p : Port) (type : Byte) (payload : List Byte) : Option Instr :=
  match p with
  | .link (.group g) => decodeGroup g type payload
  | .link .power => decodePower type payload
  | .link .panel => decodePanel type payload
  | .maintenance => decodeMaintenance type payload

/-- The command that one whole frame spells on a port: its message, or a dropped frame (R158); none where the bytes are no whole
frame that begins at a sync byte. -/
def decodeFrame (p : Port) (bytes : List Byte) : Option Instr :=
  match Machine.attempt bytes with
  | .noSync | .short => none
  | .bad => some (.droppedFrame p bytes)
  | .good type payload rest =>
    if rest.isEmpty then
      match decodeMessage p type payload with
      | some i => some i
      | none => some (.droppedFrame p bytes)
    else none

/-- The commands that a run of received bytes spells on a port: the receiver hunts for the sync byte, and after a bad frame it
resumes at the byte after that frame's sync byte (R158). The fuel is the number of bytes. -/
def hunt (p : Port) : Nat → List Byte → List Instr
  | 0, _ => []
  | fuel + 1, bytes =>
    match Machine.attempt bytes with
    | .noSync => hunt p fuel bytes.tail
    | .short => []
    | .bad => .droppedFrame p bytes :: hunt p fuel bytes.tail
    | .good type payload rest =>
      (decodeMessage p type payload).getD (.droppedFrame p (bytes.take (bytes.length - rest.length))) :: hunt p fuel rest

/-- Port, type and payload of a message command; none for a command that is no message (sections 12.3 to 12.6). -/
def encodeMessage : Instr → Option (Port × Byte × List Byte)
  | .status g r => some (.link (.group g), 0x10#8,
      [r.car, r.position, r.flags, r.door, r.load, r.modeDir, r.destination, r.carCalls, r.faultCode, r.sequence])
  | .request g car dest => some (.link (.group g), 0x11#8, [car, dest])
  | .withdraw g car => some (.link (.group g), 0x12#8, [car])
  | .started g car => some (.link (.group g), 0x13#8, [car])
  | .arrived g car landing => some (.link (.group g), 0x14#8, [car, landing])
  | .halted g car landing cause => some (.link (.group g), 0x15#8, [car, landing, cause])
  | .source state kind => some (.link .power, 0x30#8, [state, kind])
  | .capacity offered absorb => some (.link .power, 0x31#8,
      [Machine.highByte offered, Machine.lowByte offered, Machine.highByte absorb, Machine.lowByte absorb])
  | .profile q => some (.link .power, 0x32#8,
      [q.mode, q.settleA, q.openA, q.settleB, q.openB, q.stepPercent, q.overloadPercent])
  | .select x y => some (.link .panel, 0x40#8, [x, y])
  | .block x y => some (.link .panel, 0x41#8, [x, y])
  | .unblock x y => some (.link .panel, 0x42#8, [x, y])
  | .restart x => some (.link .panel, 0x43#8, [x])
  | .retry x => some (.link .panel, 0x44#8, [x])
  | .tableWrite sectionNo values => some (.maintenance, 0x50#8, sectionNo :: values)
  | .tableCommit value => some (.maintenance, 0x51#8, [value])
  | .tableRead sectionNo from_ => some (.maintenance, 0x52#8, [sectionNo, from_])
  | .deviceReset | .droppedFrame _ _ | .silenceTimerExpiry _ | .strainAsserted | .strainReleased | .tripAsserted
  | .tripReleased | .filterTimerExpiry | .blankingTimerExpiry | .standbySettleExpiry | .collectionTimerExpiry
  | .preTransferTimerExpiry | .clear | .accountTick | .windowTimerExpiry | .settleAExpiry | .openAExpiry
  | .settleBExpiry | .openBExpiry | .admission | .grant | .startTimerExpiry _ | .runTimerExpiry _
  | .graceTimerExpiry _ | .dwellTimerExpiry _ => none

/-- The port and the frame of a message command. -/
def encodeFrame (i : Instr) : Option (Port × List Byte) :=
  match encodeMessage i with
  | some (p, type, payload) => some (p, Machine.frameOf type payload)
  | none => none

end Sys2Proof
end

