-- ==== Sys2Proof/Config.lean ====
section
/-! DEFINITION. What is fixed for the machine and does not change as it runs: the unit in which the model counts time, and the one free value. -/

namespace Sys2Proof.Config

/-- The model counts time in units of 50 ms, the finest step the spec names (R113). A tenth of a second is two units. -/
def tenth : Nat := 2

/-- A second, in units of 50 ms. -/
def second : Nat := 20

/-- The account tick recurs every 1.0 s (R71). -/
def tickPeriod : Nat := second

/-- A FREE VALUE: whether a device reset so long after an accepted commit (in units of 50 ms) still falls during the storage write, whose
length the spec does not give (R164, assumption 55). -/
opaque tearsWrite : Nat → Bool

end Sys2Proof.Config
end

