-- ==== Sys2Proof/Machine/Table.lean ====
section
/-! DEFINITION. The site table (section 12.7): its sections, their stored form (section 12.6), the fallback table, the check value
and the validation of R164. The pending image is not validated when it is written (R163), so an image holds plain numbers. -/

namespace Sys2Proof.Machine

/-- The site section (section 12.7). Settle, pre-transfer and blanking times are in tenths of a second, the filter time in 50 ms
steps, the other durations in seconds. -/
structure SiteSection where
  eMax : Nat
  eFallback : Nat
  attempts : Nat
  settleTime : Nat
  preTransferTime : Nat
  recallLength : Nat
  serviceLength : Nat
  holdBack : Nat
  preemption : PreemptMode
  deferral : Bool
  strainMode : StrainMode
  filterTime : Nat
  blankingTime : Nat
  svcRatio : Nat
  svcLimit : Nat
  svcClip : Nat
  svcDecr : Nat
  profile : Profile
  deriving DecidableEq, Repr

/-- A zone of a group (R136). -/
structure Zone where
  low : Nat
  high : Nat
  primary : Nat
  alternate : Nat
  deriving DecidableEq, Repr

/-- A group section (section 12.7). zonePlaces has the four places of the stored form, of which the first zoneCount are read. -/
structure GroupSection where
  configured : Bool
  lowest : Nat
  highest : Nat
  zoneCount : Nat
  zonePlaces : List Zone
  defaultPrimary : Nat
  defaultAlternate : Nat
  dwellTime : Nat
  parkDoors : Doors
  shutWhenParked : Bool
  serviceCount : Nat
  releaseOrder : List Nat
  tBase : Nat
  tFloor : Nat
  ratio : Nat
  limit : Nat
  clip : Nat
  decr : Nat
  high : Bool
  yield : Bool
  deriving DecidableEq, Repr

/-- A car section (section 12.7): the five ratings of R42. -/
structure CarSection where
  configured : Bool
  m : Nat
  k : Nat
  reff : Nat
  b : Nat
  i : Nat
  deriving DecidableEq, Repr

/-- A whole table: one site section, six group sections, 48 car sections (section 12.7). -/
structure Image where
  site : SiteSection
  groups : Vector GroupSection 6
  cars : Vector CarSection 48
  deriving DecidableEq, Repr

/-- The zones that are read (section 12.6). -/
def GroupSection.zones (g : GroupSection) : List Zone := g.zonePlaces.take g.zoneCount

/-! ### The fallback table (last column of the table of section 12.7) -/

/-- The initial pace profile of the fallback table (R98). -/
def fallbackProfile : Profile :=
  { mode := .unified, settleA := 100, openA := 20, settleB := 100, openB := 20, stepPercent := 30, overloadPercent := 0 }

/-- The site section of the fallback table. -/
def fallbackSite : SiteSection :=
  { eMax := 4000, eFallback := 100, attempts := 3, settleTime := 100, preTransferTime := 300, recallLength := 30,
    serviceLength := 30, holdBack := 0, preemption := .off, deferral := false, strainMode := .hold, filterTime := 0,
    blankingTime := 0, svcRatio := 0, svcLimit := 65535, svcClip := 65535, svcDecr := 1, profile := fallbackProfile }

/-- A group section of the fallback table; no group is configured until a report configures it (R21). -/
def fallbackGroup : GroupSection :=
  { configured := false, lowest := 0, highest := 127, zoneCount := 0,
    zonePlaces := [⟨0, 0, 0, 0⟩, ⟨0, 0, 0, 0⟩, ⟨0, 0, 0, 0⟩, ⟨0, 0, 0, 0⟩], defaultPrimary := 0, defaultAlternate := 0,
    dwellTime := 30, parkDoors := .closed, shutWhenParked := false, serviceCount := 0, releaseOrder := [], tBase := 30,
    tFloor := 3, ratio := 0, limit := 65535, clip := 65535, decr := 1, high := false, yield := false }

/-- A car section of the fallback table (R42). -/
def fallbackCar : CarSection := { configured := false, m := 100, k := 200, reff := 0, b := 50, i := 5 }

/-- The fallback table (R165). -/
def fallbackImage : Image :=
  { site := fallbackSite, groups := Vector.replicate 6 fallbackGroup, cars := Vector.replicate 48 fallbackCar }

/-! ### Section names -/

/-- The sections that a section number can name (section 12.6): 0 site; 1 to 6 groups 0 to 5; 8 to 55 cars. -/
inductive SectionName where
  | site
  | group (g : GroupNo)
  | car (n : CarName)
  deriving DecidableEq, Repr

/-- The section that a section number names; none for 7 and for 56 and above. -/
def SectionName.ofByte (b : Byte) : Option SectionName :=
  if b.toNat = 0 then some .site
  else if h : b.toNat - 1 < 6 then some (.group ⟨b.toNat - 1, h⟩)
  else if h : 8 ≤ b.toNat ∧ b.toNat - 8 < 48 then some (.car ⟨b.toNat - 8, h.2⟩)
  else none

/-- The section number of a section. -/
def SectionName.number : SectionName → Byte
  | .site => 0#8
  | .group g => byteOf (g.val + 1)
  | .car n => byteOf (n.val + 8)

/-! ### Stored form (section 12.6). Offsets count from the byte after the section number. -/

/-- The one-byte value at an offset. -/
def val1 (bs : List Byte) (at_ : Nat) : Nat := (bs.getD at_ 0#8).toNat

/-- The two-byte value at an offset, high byte first. -/
def val2 (bs : List Byte) (at_ : Nat) : Nat := (wordOf (bs.getD at_ 0#8) (bs.getD (at_ + 1) 0#8)).toNat

/-- A flag byte; none for a value that codes no flag. -/
def flagOf (bs : List Byte) (at_ : Nat) : Option Bool :=
  match val1 bs at_ with
  | 0 => some false
  | 1 => some true
  | _ => none

def PreemptMode.ofCode : Nat → Option PreemptMode
  | 0 => some .off
  | 1 => some .queued
  | 2 => some .running
  | _ => none

def PreemptMode.code : PreemptMode → Nat
  | .off => 0
  | .queued => 1
  | .running => 2

def StrainMode.ofCode : Nat → Option StrainMode
  | 0 => some .note
  | 1 => some .hold
  | 2 => some .holdShed
  | 3 => some .operator
  | _ => none

def StrainMode.code : StrainMode → Nat
  | .note => 0
  | .hold => 1
  | .holdShed => 2
  | .operator => 3

def Doors.ofCode : Nat → Option Doors
  | 0 => some .opened
  | 1 => some .closed
  | _ => none

def Doors.code : Doors → Nat
  | .opened => 0
  | .closed => 1

def PaceMode.ofCode : Nat → Option PaceMode
  | 0 => some .unified
  | 1 => some .split
  | _ => none

def PaceMode.code : PaceMode → Nat
  | .unified => 0
  | .split => 1

/-- The initial pace profile of a site section, at bytes 24 to 30 (section 12.6). -/
def profileOf (bs : List Byte) (at_ : Nat) : Option Profile :=
  match PaceMode.ofCode (val1 bs at_) with
  | some mode =>
    some { mode := mode, settleA := val1 bs (at_ + 1), openA := val1 bs (at_ + 2), settleB := val1 bs (at_ + 3),
           openB := val1 bs (at_ + 4), stepPercent := val1 bs (at_ + 5), overloadPercent := val1 bs (at_ + 6) }
  | none => none

/-- The bytes of a pace profile, as PROFILE bytes 0 to 6. -/
def Profile.bytes (p : Profile) : List Byte :=
  [byteOf p.mode.code, byteOf p.settleA, byteOf p.openA, byteOf p.settleB, byteOf p.openB, byteOf p.stepPercent,
   byteOf p.overloadPercent]

/-- The site section that 30 value bytes hold; none where a byte codes no value of its field (R163, assumption 10). -/
def SiteSection.ofBytes (bs : List Byte) : Option SiteSection :=
  if bs.length ≠ 30 then none
  else
    match PreemptMode.ofCode (val1 bs 12), flagOf bs 13, StrainMode.ofCode (val1 bs 14), profileOf bs 23 with
    | some preemption, some deferral, some strainMode, some profile =>
      some { eMax := val2 bs 0, eFallback := val2 bs 2, attempts := val1 bs 4, settleTime := val2 bs 5,
             preTransferTime := val2 bs 7, recallLength := val1 bs 9, serviceLength := val1 bs 10, holdBack := val1 bs 11,
             preemption := preemption, deferral := deferral, strainMode := strainMode, filterTime := val1 bs 15,
             blankingTime := val1 bs 16, svcRatio := val1 bs 17, svcLimit := val2 bs 18, svcClip := val2 bs 20,
             svcDecr := val1 bs 22, profile := profile }
    | _, _, _, _ => none

/-- The value bytes of a site section. -/
def SiteSection.bytes (s : SiteSection) : List Byte :=
  word2 s.eMax ++ word2 s.eFallback ++ [byteOf s.attempts] ++ word2 s.settleTime ++ word2 s.preTransferTime ++
  [byteOf s.recallLength, byteOf s.serviceLength, byteOf s.holdBack, byteOf s.preemption.code, flagByte s.deferral,
   byteOf s.strainMode.code, byteOf s.filterTime, byteOf s.blankingTime, byteOf s.svcRatio] ++
  word2 s.svcLimit ++ word2 s.svcClip ++ [byteOf s.svcDecr] ++ s.profile.bytes

/-- The zone at an offset. -/
def zoneAt (bs : List Byte) (at_ : Nat) : Zone :=
  { low := val1 bs at_, high := val1 bs (at_ + 1), primary := val1 bs (at_ + 2), alternate := val1 bs (at_ + 3) }

/-- The release order in its eight places: the car numbers before the first 255, with 255 in every place after the last. -/
def releaseOrderOf (places : List Byte) : Option (List Nat) :=
  let cars := places.takeWhile (· ≠ 255#8)
  if (places.drop cars.length).all (· = 255#8) then some (cars.map BitVec.toNat) else none

/-- The group section that 43 value bytes hold; none where a byte codes no value of its field (R163, assumption 10). -/
def GroupSection.ofBytes (bs : List Byte) : Option GroupSection :=
  if bs.length ≠ 43 then none
  else
    match flagOf bs 0, Doors.ofCode (val1 bs 23), flagOf bs 24, releaseOrderOf ((bs.drop 26).take 8) with
    | some configured, some parkDoors, some shutWhenParked, some releaseOrder =>
      some { configured := configured, lowest := val1 bs 1, highest := val1 bs 2, zoneCount := val1 bs 3,
             zonePlaces := [zoneAt bs 4, zoneAt bs 8, zoneAt bs 12, zoneAt bs 16], defaultPrimary := val1 bs 20,
             defaultAlternate := val1 bs 21, dwellTime := val1 bs 22, parkDoors := parkDoors,
             shutWhenParked := shutWhenParked, serviceCount := val1 bs 25, releaseOrder := releaseOrder,
             tBase := val1 bs 34, tFloor := val1 bs 35, ratio := val1 bs 36, limit := val2 bs 37, clip := val2 bs 39,
             decr := val1 bs 41, high := (bs.getD 42 0#8).getLsbD 0, yield := (bs.getD 42 0#8).getLsbD 1 }
    | _, _, _, _ => none

/-- The bytes of one zone place; places beyond the number of zones are sent as 0 (section 12.6). -/
def zoneBytes (g : GroupSection) (place : Nat) : List Byte :=
  if place < g.zoneCount then
    let z := g.zonePlaces.getD place ⟨0, 0, 0, 0⟩
    [byteOf z.low, byteOf z.high, byteOf z.primary, byteOf z.alternate]
  else [0#8, 0#8, 0#8, 0#8]

/-- The value bytes of a group section. -/
def GroupSection.bytes (g : GroupSection) : List Byte :=
  [flagByte g.configured, byteOf g.lowest, byteOf g.highest, byteOf g.zoneCount] ++
  zoneBytes g 0 ++ zoneBytes g 1 ++ zoneBytes g 2 ++ zoneBytes g 3 ++
  [byteOf g.defaultPrimary, byteOf g.defaultAlternate, byteOf g.dwellTime, byteOf g.parkDoors.code,
   flagByte g.shutWhenParked, byteOf g.serviceCount] ++
  ((g.releaseOrder.map byteOf ++ List.replicate 8 255#8).take 8) ++
  [byteOf g.tBase, byteOf g.tFloor, byteOf g.ratio] ++ word2 g.limit ++ word2 g.clip ++
  [byteOf g.decr, byteOf ((if g.high then 1 else 0) + (if g.yield then 2 else 0))]

/-- The car section that 8 value bytes hold; none where the configured byte is no flag (R163). -/
def CarSection.ofBytes (bs : List Byte) : Option CarSection :=
  if bs.length ≠ 8 then none
  else
    match flagOf bs 0 with
    | some configured =>
      some { configured := configured, m := val2 bs 1, k := val2 bs 3, reff := val1 bs 5, b := val1 bs 6, i := val1 bs 7 }
    | none => none

/-- The value bytes of a car section. -/
def CarSection.bytes (c : CarSection) : List Byte :=
  [flagByte c.configured] ++ word2 c.m ++ word2 c.k ++ [byteOf c.reff, byteOf c.b, byteOf c.i]

/-- An image with one section replaced by the values given; none where they are no encoding of that section (R163). -/
def Image.write (img : Image) (sec : SectionName) (values : List Byte) : Option Image :=
  match sec with
  | .site => (SiteSection.ofBytes values).map fun x => { img with site := x }
  | .group g => (GroupSection.ofBytes values).map fun x => { img with groups := img.groups.set g x }
  | .car n => (CarSection.ofBytes values).map fun x => { img with cars := img.cars.set n x }

/-- The value bytes of one section (R163). -/
def Image.read (img : Image) : SectionName → List Byte
  | .site => img.site.bytes
  | .group g => (img.groups[g]).bytes
  | .car n => (img.cars[n]).bytes

/-- All group numbers, ascending. -/
def groupNos : List GroupNo := List.finRange 6

/-- All car numbers, ascending. -/
def carNos : List CarNo := List.finRange 8

/-- All car names, ascending: group number first, then car number. -/
def carNames : List CarName := List.finRange 48

/-- The car name g.c. -/
def carOf (g : GroupNo) (c : CarNo) : CarName := ⟨g.val * 8 + c.val, by omega⟩

/-- The group of a car name. -/
def groupOf (n : CarName) : GroupNo := ⟨n.val / 8, by omega⟩

/-- The car number of a car name. -/
def numberOf (n : CarName) : CarNo := ⟨n.val % 8, by omega⟩

/-- The car names of a group, ascending. -/
def groupCars (g : GroupNo) : List CarName := carNos.map (carOf g)

/-- The contents over which the check value of a stored table is formed: every section's values in ascending section number
(assumption 11). -/
def Image.contents (img : Image) : List Byte :=
  img.site.bytes ++ groupNos.flatMap (fun g => (img.groups[g]).bytes) ++ carNames.flatMap (fun n => (img.cars[n]).bytes)

/-! ### Validation (R164) -/

def inRange (lo hi v : Nat) : Bool := lo ≤ v && v ≤ hi

/-- The ranges of a pace profile (R111). -/
def Profile.ranges (p : Profile) : Bool :=
  inRange 0 255 p.settleA && inRange 1 255 p.openA && inRange 0 255 p.settleB && inRange 1 255 p.openB &&
  inRange 10 60 p.stepPercent && inRange 0 25 p.overloadPercent

/-- The ranges of the site section (section 12.7). -/
def SiteSection.ranges (s : SiteSection) : Bool :=
  inRange 1 4000 s.eMax && inRange 0 4000 s.eFallback && inRange 1 3 s.attempts && inRange 20 300 s.settleTime &&
  inRange 50 600 s.preTransferTime && inRange 5 255 s.recallLength && inRange 5 255 s.serviceLength &&
  inRange 0 255 s.holdBack && inRange 0 15 s.filterTime && inRange 0 50 s.blankingTime && inRange 0 255 s.svcRatio &&
  inRange 0 65535 s.svcLimit && inRange 0 65535 s.svcClip && inRange 1 255 s.svcDecr && s.profile.ranges

/-- The ranges of a zone: landings. -/
def Zone.ranges (z : Zone) : Bool :=
  inRange 0 127 z.low && inRange 0 127 z.high && inRange 0 127 z.primary && inRange 0 127 z.alternate

/-- The ranges of a group section (section 12.7). -/
def GroupSection.ranges (g : GroupSection) : Bool :=
  inRange 0 127 g.lowest && inRange 0 127 g.highest && inRange 0 4 g.zoneCount && g.zones.all Zone.ranges &&
  inRange 0 127 g.defaultPrimary && inRange 0 127 g.defaultAlternate && inRange 10 120 g.dwellTime &&
  inRange 0 8 g.serviceCount && g.releaseOrder.all (inRange 0 7) && inRange 10 60 g.tBase && inRange 1 10 g.tFloor &&
  inRange 0 255 g.ratio && inRange 0 65535 g.limit && inRange 0 65535 g.clip && inRange 1 255 g.decr

/-- The ranges of the ratings (R42). -/
def CarSection.ranges (c : CarSection) : Bool :=
  inRange 1 400 c.m && inRange 100 300 c.k && inRange 0 90 c.reff && inRange 30 55 c.b && inRange 0 15 c.i

/-- Whether some car of a group is configured. -/
def Image.groupHasCar (img : Image) (g : GroupNo) : Bool := (groupCars g).any fun n => (img.cars[n]).configured

/-- A failure of a commit: the reason and the section concerned, none where no section applies (R164). -/
abbrev TableFailure := TableReason × Option SectionName

/-- The first configured group for which a check fails. -/
def Image.firstGroup (img : Image) (reason : TableReason) (ok : GroupNo → GroupSection → Bool) : Option TableFailure :=
  (groupNos.find? fun g => (img.groups[g]).configured && !ok g (img.groups[g])).map fun g => (reason, some (.group g))

/-- Item 1 of R164, RANGE, over the sections in ascending section number. -/
def Image.rangeItem (img : Image) : Option TableFailure :=
  if !img.site.ranges then some (.range, some .site)
  else
    match groupNos.find? fun g => !(img.groups[g]).ranges with
    | some g => some (.range, some (.group g))
    | none => (carNames.find? fun n => !(img.cars[n]).ranges).map fun n => (.range, some (.car n))

/-- Item 2 of R164, NO_GROUP. -/
def Image.groupItem (img : Image) : Option TableFailure :=
  if !groupNos.any fun g => (img.groups[g]).configured then some (.noGroup, none)
  else
    match img.firstGroup .noGroup (fun g _ => img.groupHasCar g) with
    | some f => some f
    | none =>
      (carNames.find? fun n => (img.cars[n]).configured && !(img.groups[groupOf n]).configured).map
        fun n => (.noGroup, some (.car n))

/-- Item 3 of R164, CLIP_BELOW_LIMIT: the groups, then the service account. DESIGN CHOICE: only configured groups are tested, as item 3 says,
though R70 says any group (assumption 68). -/
def Image.clipItem (img : Image) : Option TableFailure :=
  match img.firstGroup .clipBelowLimit (fun _ x => x.limit ≤ x.clip) with
  | some f => some f
  | none => if img.site.svcLimit ≤ img.site.svcClip then none else some (.clipBelowLimit, some .site)

/-- Whether a landing lies in the served range. -/
def GroupSection.serves (g : GroupSection) (landing : Nat) : Bool := inRange g.lowest g.highest landing

/-- Item 5 of R164 for one group, ZONE. -/
def GroupSection.zonesOk (g : GroupSection) : Bool :=
  g.zones.all fun z => z.low ≤ z.high && g.serves z.low && g.serves z.high && g.serves z.primary && g.serves z.alternate

/-- Item 7 of R164 for one group, RELEASE_ORDER: only configured cars of the group, none twice. -/
def Image.releaseOk (img : Image) (g : GroupNo) (x : GroupSection) : Bool :=
  x.releaseOrder.all (fun c => if h : c < 8 then (img.cars[carOf g ⟨c, h⟩]).configured else false) &&
  x.releaseOrder.Nodup

/-- The first item of R164 that fails, in the order of the rule; none for an image that passes every item. -/
def Image.firstFailure (img : Image) : Option TableFailure :=
  img.rangeItem <|> img.groupItem <|> img.clipItem <|>
  img.firstGroup .servedRange (fun _ x => x.lowest ≤ x.highest) <|>
  img.firstGroup .zone (fun _ x => x.zonesOk) <|>
  img.firstGroup .recallLanding (fun _ x => x.serves x.defaultPrimary && x.serves x.defaultAlternate) <|>
  img.firstGroup .releaseOrder img.releaseOk

/-- The stored table with its check value (section 12.7). -/
structure StoredTable where
  image : Image
  check : BitVec 16
  deriving DecidableEq, Repr

/-- A stored table that a reset during its write has left: its check value does not match (R164). -/
def StoredTable.torn (t : StoredTable) : StoredTable := { t with check := ~~~ crc16 t.image.contents }

/-- Why the stored table is not in effect: none when it is (R165). A store that holds no table fails its check (assumption 12). -/
def storedFailure : Option StoredTable → Option TableFailure
  | none => some (.check, none)
  | some t => if crc16 t.image.contents ≠ t.check then some (.check, none) else t.image.firstFailure

end Sys2Proof.Machine
end

