-- ==== Sys2Proof/Machine/Messages.lean ====
section
/-! DEFINITION. The messages the part sends, with their types, codes and byte layouts (sections 12.3 to 12.6). -/

namespace Sys2Proof.Machine

/-- The fields of a CAR summary (R39). -/
structure CarSummary where
  car : CarName
  position : Option Landing
  between : Bool
  door : Door
  load : Option Nat
  occupied : Bool
  fire : Bool
  fault : Bool
  faultCode : Byte
  powered : Bool
  motion : Motion
  step : RecoveryStep
  owner : Owner
  attempts : Nat
  permit : Option (RunClass × Nat)
  saved : Bool
  deriving DecidableEq, Repr

/-- An ALERT with its details (section 12.6). -/
inductive Alert where
  | distress (mode : StrainMode) (before : PacerState)
  | waitRestart (number : Byte) (trip strain : Bool)
  | trip (abandoned cancelled : Nat) (after : PacerState)
  | overcommit (e a bl ml rl : Nat) (motor absorb : Bool)
  | unpermitted (car : CarName) (position : Option Landing)
  | givenUp (car : CarName) (cause : FailCause)
  | runTimeout (car : CarName) (cls : RunClass)
  | linkLost (group : GroupNo) (graced cancelled : Nat)
  | noRecallLanding (car : CarName) (landing primary alternate : Landing)
  | configFallback (cause : TableFailure)
  deriving DecidableEq, Repr

/-- A message the part sends. -/
inductive OutMsg where
  | start (car : CarNo) (destination : Option Landing) (cls : RunClass) (limit : Nat)
  | order (car : CarNo) (kind : OrderKind) (parameter : Nat)
  | refuse (car : Byte) (reason : RefuseReason)
  | restore (car : CarNo) (context : Context)
  | phase (p : Phase) (w : Window)
  | query
  | clear (forced : Bool) (kind : TransKind) (moving : Nat)
  | load (e bl ml rl : Nat)
  | car (summary : CarSummary)
  | alert (a : Alert)
  | refused (type : Byte) (reason : RefusedReason)
  | tableDone (sec : SectionName)
  | tableRefused (type : Byte) (reason : TableReason) (sec : Option SectionName)
  | tableData (sec : SectionName) (values : List Byte)
  | tableCommitted
  deriving DecidableEq, Repr

/-! ### Codes of enumerated fields (section 12.6) -/

def Phase.code : Phase → Nat
  | .startup => 0
  | .normal => 1
  | .outage => 2
  | .takeover => 3
  | .recall => 4
  | .service => 5
  | .preTransfer => 6

def Window.code : Window → Nat
  | .noWindow => 0
  | .recallWindow => 1
  | .serviceWindow => 2

def TransKind.code : TransKind → Nat
  | .openTransition => 0
  | .closedTransition => 1

def OrderKind.code : OrderKind → Nat
  | .stay => 0
  | .stopNext => 1
  | .stopNow => 2
  | .openDwell => 3
  | .park => 4
  | .shut => 5
  | .powerUp => 6
  | .release => 7

def RefuseReason.code : RefuseReason → Nat
  | .phase => 0
  | .noCar => 1
  | .notOwner => 2
  | .badLanding => 3
  | .busy => 4
  | .out => 5
  | .noStart => 6
  | .cancelled => 7

def RunClass.code : RunClass → Nat
  | .fire => 0
  | .recall => 1
  | .service => 2

def Direction.code : Direction → Nat
  | .still => 0
  | .up => 1
  | .down => 2

def Door.code : Door → Nat
  | .closed => 0
  | .opening => 1
  | .opened => 2
  | .closing => 3
  | .unknown => 4

def Motion.code : Motion → Nat
  | .still => 0
  | .requested => 1
  | .granted => 2
  | .starting => 3
  | .running => 4
  | .stopping => 5
  | .stranded => 6
  | .out _ => 7

/-- Out reason code: 0 for a car that is not OUT. -/
def Motion.outCode : Motion → Nat
  | .out .fault => 1
  | .out .link => 2
  | .out .runTimeout => 3
  | .out .silent => 4
  | .out .unpowered => 5
  | _ => 0

def RecoveryStep.code : RecoveryStep → Nat
  | .normal => 0
  | .awaiting => 1
  | .recallDue => 2
  | .recalling => 3
  | .dwell => 4
  | .parked => 5
  | .shut => 6
  | .service => 7
  | .givenUp => 8

def Owner.code : Owner → Nat
  | .group => 0
  | .sequencer => 1
  | .nobody => 2

def PacerState.code : PacerState → Nat
  | .halted => 0
  | .settleA => 1
  | .openA => 2
  | .settleB => 3
  | .openB => 4
  | .hold => 5
  | .waitRestart => 6

def RefusedReason.code : RefusedReason → Nat
  | .noGroup => 0
  | .noCar => 1
  | .noLanding => 2
  | .full => 3
  | .phase => 4
  | .notGivenUp => 5

def TableReason.code : TableReason → Nat
  | .format => 0
  | .phase => 1
  | .range => 2
  | .noGroup => 3
  | .clipBelowLimit => 4
  | .servedRange => 5
  | .zone => 6
  | .recallLanding => 7
  | .releaseOrder => 8
  | .check => 9

def HaltCause.code : HaltCause → Nat
  | .safety => 0
  | .door => 1
  | .power => 2
  | .other => 3

def FailCause.code : FailCause → Nat
  | .halted c => c.code
  | .noStart => 4
  | .runTimeout => 5

/-- A landing as one byte; none is sent as 255 (section 12.6). -/
def landingByte : Option Landing → Byte
  | some l => byteOf l.val
  | none => 255#8

/-- A section as one byte; 255 where no section applies (section 12.6). -/
def sectionByte : Option SectionName → Byte
  | some sec => sec.number
  | none => 255#8

/-- Flags packed into one byte, bit 0 first. -/
def packFlags (bits : List Bool) : Byte := byteOf (bits.foldr (fun b acc => (if b then 1 else 0) + 2 * acc) 0)

/-! ### Types and payloads (section 12.6) -/

/-- The payload of an ALERT: its kind, then the details of that kind. -/
def Alert.payload : Alert → List Byte
  | .distress mode before => [0#8, byteOf mode.code, byteOf before.code]
  | .waitRestart number t s => [1#8, number, packFlags [t, s]]
  | .trip abandoned cancelled after => [2#8, byteOf abandoned, byteOf cancelled, byteOf after.code]
  | .overcommit e a bl ml rl motor absorb =>
    3#8 :: (word2Sat e ++ word2Sat a ++ word2Sat bl ++ word2Sat ml ++ word2Sat rl ++ [packFlags [motor, absorb]])
  | .unpermitted car position => [4#8, byteOf car.val, landingByte position]
  | .givenUp car cause => [5#8, byteOf car.val, byteOf cause.code]
  | .runTimeout car cls => [6#8, byteOf car.val, byteOf cls.code]
  | .linkLost group graced cancelled => [7#8, byteOf group.val, byteOf graced, byteOf cancelled]
  | .noRecallLanding car landing primary alternate =>
    [8#8, byteOf car.val, byteOf landing.val, byteOf primary.val, byteOf alternate.val]
  | .configFallback cause => [9#8, byteOf cause.1.code, sectionByte cause.2]

/-- The payload of a CAR summary. -/
def CarSummary.payload (c : CarSummary) : List Byte :=
  [byteOf c.car.val, landingByte c.position,
   packFlags [c.between, c.occupied, c.fire, c.fault, c.powered, c.saved],
   byteOf c.door.code, (match c.load with | some l => byteOf l | none => 255#8),
   (if c.fault then c.faultCode else 0#8), byteOf c.motion.code, byteOf c.motion.outCode, byteOf c.step.code,
   byteOf c.owner.code, byteOf c.attempts,
   (match c.permit with | some p => byteOf p.1.code | none => 255#8),
   (match c.permit with | some p => byteOf p.2 | none => 255#8), 0#8, 0#8, 0#8]

/-- The message type (sections 12.3 to 12.6). -/
def OutMsg.type : OutMsg → Byte
  | .start _ _ _ _ => 0x20#8
  | .order _ _ _ => 0x21#8
  | .refuse _ _ => 0x22#8
  | .restore _ _ => 0x23#8
  | .phase _ _ => 0x24#8
  | .query => 0x25#8
  | .clear _ _ _ => 0x38#8
  | .load _ _ _ _ => 0x39#8
  | .car _ => 0x48#8
  | .alert _ => 0x49#8
  | .refused _ _ => 0x4A#8
  | .tableDone _ => 0x58#8
  | .tableRefused _ _ _ => 0x59#8
  | .tableData _ _ => 0x5A#8
  | .tableCommitted => 0x5B#8

/-- The payload of a message. -/
def OutMsg.payload : OutMsg → List Byte
  | .start c destination cls limit => [byteOf c.val, landingByte destination, byteOf cls.code] ++ word2 limit
  | .order c kind parameter => [byteOf c.val, byteOf kind.code] ++ word2 parameter
  | .refuse c reason => [c, byteOf reason.code]
  | .restore c x =>
    [byteOf c.val, byteOf x.mode.toNat, byteOf x.direction.code, landingByte x.destination, byteOf x.door.code,
     byteOf x.carCalls]
  | .phase p w => [byteOf p.code, byteOf w.code]
  | .query => [255#8]
  | .clear forced kind moving => [flagByte forced, byteOf kind.code, byteOf moving]
  | .load e bl ml rl => word2Sat e ++ word2Sat bl ++ word2Sat ml ++ word2Sat rl
  | .car summary => summary.payload
  | .alert a => a.payload
  | .refused type reason => [type, byteOf reason.code]
  | .tableDone sec => [sec.number]
  | .tableRefused type reason sec => [type, byteOf reason.code, sectionByte sec]
  | .tableData sec values => sec.number :: values
  | .tableCommitted => [0#8]

/-- The frame in which a message goes out (R158). -/
def OutMsg.frame (m : OutMsg) : List Byte := frameOf m.type m.payload

end Sys2Proof.Machine
end

