-- ==== Sys2Proof/Machine/State.lean ====
section
/-! DEFINITION. The state of the TQ-18 as plain data, block by block, and its value after device reset. Times are counted in units of
50 ms; a running timer holds the time at which it ends (assumption 1). -/

namespace Sys2Proof.Machine

/-- No command makes the part stop with a fault: the spec gives every command an effect, and ordinary data never ends a run. The
type is therefore empty (safe: nothing can be proved of a fault that cannot occur). -/
inductive Fault where
  deriving DecidableEq, Repr

/-- Why the model has no meaning for a command. -/
inductive Refusal where
  /-- Raised by exec's arm of a command that has no meaning yet; no arm raises it now (safe). -/
  | notModelled (mnemonic : String)
  deriving DecidableEq, Repr

/-- The record of one configured car (R21). An absent record is none in State.cars. The owner is a function of the step (R32), the
live permit is the run held here or the permit in the queue or slot that names the car (R37). -/
structure Car where
  /-- Position: a landing, or none for UNKNOWN (R21). -/
  position : Option Landing
  /-- Between-floors (R21). -/
  between : Bool
  /-- Door (R21). -/
  door : Door
  /-- Load in percent, none for unknown (R21). -/
  load : Option Nat
  /-- Moving flag (R21). -/
  moving : Bool
  /-- Direction (R21). -/
  direction : Direction
  /-- Mode code (R21). -/
  mode : BitVec 4
  /-- Occupied flag (R21). -/
  occupied : Bool
  /-- Fire flag (R21). -/
  fire : Bool
  /-- Fault flag (R21). -/
  fault : Bool
  /-- Fault code (R21). -/
  faultCode : Byte
  /-- Powered flag (R21). -/
  powered : Bool
  /-- Capture image (R6). -/
  image : Option Context
  /-- Motion state with its out reason (R21). -/
  motion : Motion
  /-- Recovery step (R136). -/
  step : RecoveryStep
  /-- Attempts (R33). -/
  attempts : Nat
  /-- Standing order (R34). -/
  order : Option Order
  /-- Saved context (R36). -/
  saved : Option Context
  /-- The admitted permit in the live-permit field (R37, R122). -/
  run : Option Run
  /-- Pending action record (R38). -/
  pending : Option PendingAction
  /-- Dwell timer (R136). -/
  dwell : Option Nat
  /-- No-landing mark (R136). -/
  noLanding : Bool
  /-- Membership of the group's service set (R136, R147). -/
  member : Option Member
  /-- Unpermitted-motion reservation (R54, R60). -/
  unpermitted : Bool
  /-- Shed credit (R54, R65). -/
  credit : Option Credit
  /-- A STATUS has been accepted since the collection began (R15). -/
  reported : Bool
  /-- Left OUT or became configured during this stay in PRE_TRANSFER, and is planned on the return (R137, R143). -/
  planDue : Bool
  deriving DecidableEq, Repr

/-- Link state and silence timer (R159). -/
structure Link where
  up : Bool
  silence : Option Nat
  deriving DecidableEq, Repr

/-- The handshake state, present only in PRE_TRANSFER: remembered phase, clearance mark (true: CLEAR sent), recorded kind, expiry
mark (R1, R151). -/
structure Handshake where
  remembered : Remembered
  clearSent : Bool
  kind : TransKind
  expired : Bool
  deriving DecidableEq, Repr

/-- The takeover stage with the end of its timer, present only in TAKEOVER (R1, R14). -/
structure Takeover where
  stage : TakeoverStage
  ends : Nat
  deriving DecidableEq, Repr

/-- The whole state of the part. -/
structure State where
  /-- Source phase (R1). -/
  phase : Phase
  /-- Remembered phase, clearance mark, recorded kind, expiry mark (R1, R151). -/
  handshake : Option Handshake
  /-- Pre-transfer timer (R1). -/
  preTimer : Option Nat
  /-- Takeover stage and its timer (R1). -/
  takeover : Option Takeover
  /-- The 48 car records (R21). -/
  cars : Vector (Option Car) 48
  /-- Offered capacity, kW (R54). -/
  offered : Nat
  /-- Absorb capacity, kW (R54). -/
  absorb : Nat
  /-- E, usable headroom (R54, R56). -/
  usable : Nat
  /-- A, absorb headroom (R54, R56). -/
  absorbRoom : Nat
  /-- STEP_MAX (R54, R56). -/
  stepMax : Nat
  /-- Peak limit (R54, R56). -/
  peak : Nat
  /-- BL, base load (R54, R58). -/
  bl : Nat
  /-- ML, motoring load (R54, R59). -/
  ml : Nat
  /-- RL, regenerating load (R54, R59). -/
  rl : Nat
  /-- Silence clamp (R54, R57). -/
  clamp : Bool
  /-- BL is held at 0 (R12). -/
  blHeld : Bool
  /-- Episode mark (R54, R64). -/
  episode : Episode
  /-- The six group accounts (R69). -/
  accounts : Vector Nat 6
  /-- The service account (R69). -/
  serviceAccount : Nat
  /-- Group order list (R69, R76). -/
  groupOrder : List GroupNo
  /-- Window state (R69). -/
  window : Window
  /-- Window timer (R69). -/
  windowTimer : Option Nat
  /-- Tick timer (R69, R71). -/
  tickTimer : Option Nat
  /-- The six request lists (R81). -/
  requests : Vector (List Entry) 6
  /-- Starvation-guard mark, by the car of the marked entry (R81, R94). -/
  mark : Option CarName
  /-- Start queue, oldest grant first (R98). -/
  queue : List Waiting
  /-- Deferral slot (R98). -/
  slot : Option Waiting
  /-- Pacer state (R98). -/
  pacer : PacerState
  /-- State timer of the pacer (R98). -/
  pacerTimer : Option Nat
  /-- Admitted mark (R98). -/
  admitted : Bool
  /-- Active pace profile (R98). -/
  profile : Profile
  /-- Staged pace profile (R98). -/
  staged : Option Profile
  /-- Strain filter timer (R113). -/
  filterTimer : Option Nat
  /-- Blanking timer (R113). -/
  blankTimer : Option Nat
  /-- Filtered strain (R113). -/
  filtered : Bool
  /-- Trip state (R113). -/
  trip : Bool
  /-- Level of the STRAIN line (section 0.2, R114). -/
  strainLine : Bool
  /-- Level of the TRIP line (section 0.2, R120). -/
  tripLine : Bool
  /-- Panel selection of each group (R136). -/
  selection : Vector Selection 6
  /-- Blocked set of each group (R136). -/
  blocked : Vector (List Landing) 6
  /-- Link state and silence timer of each group link (R159). -/
  groupLinks : Vector Link 6
  /-- Link state and silence timer of the power link (R159). -/
  powerLink : Link
  /-- Link state and silence timer of the panel link (R159). -/
  panelLink : Link
  /-- Stored table (section 12.7). -/
  stored : Option StoredTable
  /-- Table in effect (section 12.7). -/
  table : Image
  /-- Present while the fallback table is in effect: why the stored table is not (R165). -/
  fallback : Option TableFailure
  /-- Pending image (section 12.7, R163). -/
  pendingImage : Image
  /-- The storage write: when the last accepted commit began it; none before any, and after a device reset (R164). -/
  written : Option Nat
  /-- The MODEL's own: the time, in units of 50 ms. -/
  now : Nat
  /-- The MODEL's own: how many permits have been granted, the serial number of the next one. -/
  grants : Nat
  /-- The MODEL's own: a selection is due, for an event of R88 has come and no run of selections has followed it yet. -/
  selectionDue : Bool
  /-- The MODEL's own: an admission attempt is due, for an event of R108 has come and no attempt has followed it yet. -/
  admissionDue : Bool
  /-- The MODEL's own: the messages the last step put on the links, in order. -/
  outbox : List (Port × OutMsg)
  /-- The MODEL's own: the commands that wait, first in, first out. -/
  pending : List Instr
  deriving DecidableEq, Repr

/-- The values a record takes at device reset or when it becomes configured (R22). -/
def Car.reset : Car :=
  { position := none, between := false, door := .unknown, load := none, moving := false, direction := .still, mode := 0#4,
    occupied := false, fire := false, fault := false, faultCode := 0#8, powered := false, image := none, motion := .still,
    step := .normal, attempts := 0, order := none, saved := none, run := none, pending := none, dwell := none,
    noLanding := false, member := none, unpermitted := false, credit := none, reported := false, planDue := false }

/-- A link after device reset: DOWN, silence timer idle (R159). -/
def Link.reset : Link := { up := false, silence := none }

/-- Every block at its reset values under a table in effect (R1, R22, R54, R69, R81, R98, R113, R136, R159, R163). What a device
reset keeps (the stored table, the lines, the model's own fields) is set by execDeviceReset. -/
def State.resetWith (img : Image) (why : Option TableFailure) (stored : Option StoredTable) : State :=
  { phase := .startup, handshake := none, preTimer := none, takeover := none,
    cars := img.cars.map fun c => if c.configured then some Car.reset else none,
    offered := 0, absorb := 0, usable := 0, absorbRoom := 0, stepMax := 0, peak := 0, bl := 0, ml := 0, rl := 0,
    clamp := false, blHeld := true, episode := .closed,
    accounts := Vector.replicate 6 0, serviceAccount := 0,
    groupOrder := groupNos.filter fun g => (img.groups[g]).configured,
    window := .noWindow, windowTimer := none, tickTimer := none,
    requests := Vector.replicate 6 [], mark := none,
    queue := [], slot := none, pacer := .halted, pacerTimer := none, admitted := false,
    profile := img.site.profile, staged := none,
    filterTimer := none, blankTimer := none, filtered := false, trip := false, strainLine := false, tripLine := false,
    selection := Vector.replicate 6 .auto, blocked := Vector.replicate 6 [],
    groupLinks := Vector.replicate 6 Link.reset, powerLink := Link.reset, panelLink := Link.reset,
    stored := stored, table := img, fallback := why, pendingImage := img, written := none,
    now := 0, grants := 0, selectionDue := false, admissionDue := false, outbox := [], pending := [] }

/-- The machine right after reset, with no stored table (assumption 12) and both lines released (assumption 13): the fallback table
is in effect and no record is configured (R22, R165). -/
def State.reset : State := State.resetWith fallbackImage (some (.check, none)) none

end Sys2Proof.Machine
end

