-- ==== Sys2Proof/Machine/Operands.lean ====
section
/-! DEFINITION. What the operand bytes of each inward message mean: every range, substitution and clamp the rules give (R23, R55, R111,
R160, R161, R162, section 12.6). -/

namespace Sys2Proof.Machine

/-- A landing byte: 0 to 127; any other value is no landing (R23, R160). -/
def landingOf (b : Byte) : Option Landing := if h : b.toNat < 128 then some ⟨b.toNat, h⟩ else none

/-- A car number byte of a group link: 0 to 7; any other value names no car (R21, R84, R122). -/
def carNoOf (b : Byte) : Option CarNo := if h : b.toNat < 8 then some ⟨b.toNat, h⟩ else none

/-- A group byte of the panel link: 0 to 5 (R162). -/
def groupNoOf (b : Byte) : Option GroupNo := if h : b.toNat < 6 then some ⟨b.toNat, h⟩ else none

/-- A car name byte of the panel link: 0 to 47 (R162). -/
def carNameOf (b : Byte) : Option CarName := if h : b.toNat < 48 then some ⟨b.toNat, h⟩ else none

/-- A door byte; a value outside the codes is taken as UNKNOWN (R23). -/
def doorOf (b : Byte) : Door :=
  match b.toNat with
  | 0 => .closed
  | 1 => .opening
  | 2 => .opened
  | 3 => .closing
  | _ => .unknown

/-- A load byte: 255 unknown, 101 to 254 clamped to 100 (R23). -/
def loadOf (b : Byte) : Option Nat := if b = 255#8 then none else some (min b.toNat 100)

/-- Bits 4 to 5 of the mode and direction byte: 0 NONE, 1 UP, 2 DOWN, 3 taken as NONE (section 12.6). -/
def directionOf (b : Byte) : Direction :=
  match (b.extractLsb' 4 2).toNat with
  | 1 => .up
  | 2 => .down
  | _ => .still

/-- The fields a STATUS report carries, after the handling of R23. -/
structure Report where
  position : Option Landing
  between : Bool
  moving : Bool
  occupied : Bool
  fire : Bool
  fault : Bool
  powered : Bool
  door : Door
  load : Option Nat
  mode : BitVec 4
  direction : Direction
  destination : Option Landing
  carCalls : Nat
  faultCode : Byte
  deriving DecidableEq, Repr

/-- The report that a STATUS payload holds (R23, section 12.6). The report sequence is stored in no record. -/
def reportOf (r : StatusBytes) : Report :=
  { position := landingOf r.position, between := r.flags.getLsbD 0, moving := r.flags.getLsbD 1,
    occupied := r.flags.getLsbD 2, fire := r.flags.getLsbD 3, fault := r.flags.getLsbD 4, powered := r.flags.getLsbD 5,
    door := doorOf r.door, load := loadOf r.load, mode := r.modeDir.extractLsb' 0 4, direction := directionOf r.modeDir,
    destination := landingOf r.destination, carCalls := min r.carCalls.toNat 63, faultCode := r.faultCode }

/-- A source state byte (R161); a value outside the codes discards the message (R2). -/
def sourceStateOf (b : Byte) : Option SourceState :=
  match b.toNat with
  | 0 => some .normal
  | 1 => some .lost
  | 2 => some .standby
  | 3 => some .preTransfer
  | 4 => some .transferAbort
  | _ => none

/-- A transition kind byte (R161); a value outside the codes discards the message (R2). -/
def transKindOf (b : Byte) : Option TransKind :=
  match b.toNat with
  | 0 => some .openTransition
  | 1 => some .closedTransition
  | _ => none

/-- A CAPACITY figure: above 4000 it is clamped to 4000 (R55). -/
def capacityOf (w : BitVec 16) : Nat := min w.toNat 4000

/-- A value clamped to the nearest end of a range (R111). -/
def clampTo (lo hi v : Nat) : Nat := max lo (min hi v)

/-- The clamped profile that a PROFILE payload holds (R111): a mode value other than UNIFIED or SPLIT is taken as UNIFIED. -/
def profileBytesOf (p : ProfileBytes) : Profile :=
  { mode := if p.mode = 1#8 then .split else .unified,
    settleA := clampTo 0 255 p.settleA.toNat, openA := clampTo 1 255 p.openA.toNat,
    settleB := clampTo 0 255 p.settleB.toNat, openB := clampTo 1 255 p.openB.toNat,
    stepPercent := clampTo 10 60 p.stepPercent.toNat, overloadPercent := clampTo 0 25 p.overloadPercent.toNat }

/-- A HALTED cause byte; a value outside the codes is taken as OTHER (R160). -/
def haltCauseOf (b : Byte) : HaltCause :=
  match b.toNat with
  | 0 => .safety
  | 1 => .door
  | 2 => .power
  | _ => .other

/-- A SELECT selection byte: 0 to 7 CAR c, 8 AUTO, 9 NONE (section 12.6); none for a value not listed (R162). -/
def selectionOf (b : Byte) : Option Selection :=
  if h : b.toNat < 8 then some (.car ⟨b.toNat, h⟩)
  else if b.toNat = 8 then some .auto
  else if b.toNat = 9 then some .nobody
  else none

end Sys2Proof.Machine
end

