-- ==== Sys2Proof/Machine/Flags.lean ====
section
/-! DEFINITION. The conditions and derived figures that the rules read: owner, rest test, standby class, load sums, derived figures,
budget states, over-commitment, the CLEAR condition. -/

namespace Sys2Proof.Machine

/-- The owner of a car in a recovery step (R32). -/
def RecoveryStep.owner : RecoveryStep → Owner
  | .awaiting | .recallDue | .recalling | .dwell | .parked => .sequencer
  | .normal | .service => .group
  | .shut | .givenUp => .nobody

/-- The owner of a car (R32). -/
def Car.owner (c : Car) : Owner := c.step.owner

/-- The rest test: the position is a landing and the car is not between floors (R25). -/
def Car.rests (c : Car) : Bool := c.position.isSome && !c.between

/-- The result of the rest test, as a motion state (R25). -/
def Car.restMotion (c : Car) : Motion := if c.rests then .still else .stranded

/-- Whether a car is OUT. -/
def Motion.isOut : Motion → Bool
  | .out _ => true
  | _ => false

/-- The record of a car; none when it is absent (R21). -/
def State.car (s : State) (n : CarName) : Option Car := s.cars[n]

/-- Whether the record of a car satisfies a test; false of an absent record. -/
def State.carIs (s : State) (n : CarName) (p : Car → Bool) : Bool :=
  match s.car n with
  | some c => p c
  | none => false

/-- Whether a car is configured (R21). -/
def State.configured (s : State) (n : CarName) : Bool := (s.car n).isSome

/-- Whether a group is configured (R21, section 12.7). -/
def State.groupConfigured (s : State) (g : GroupNo) : Bool := (s.table.groups[g]).configured

/-- The standby class of a phase (R3). -/
def State.standby (s : State) : Bool :=
  match s.phase with
  | .takeover | .recall | .service => true
  | .preTransfer =>
    match s.handshake with
    | some h => h.remembered ≠ .normal
    | none => false
  | .startup | .normal | .outage => false

/-- Whether a link is UP (R159). -/
def State.linkUp (s : State) : LinkId → Bool
  | .group g => (s.groupLinks[g]).up
  | .power => s.powerLink.up
  | .panel => s.panelLink.up

/-- Whether the part can send on a port; the maintenance port has no link state (R159). -/
def State.portUp (s : State) : Port → Bool
  | .link l => s.linkUp l
  | .maintenance => true

/-- Time in tenths of a second. -/
def State.tenths (s : State) : Nat := s.now / Config.tenth

/-! ### Permits -/

/-- The permits that wait: the start queue and the deferral slot (R98). -/
def State.waiting (s : State) : List Waiting := s.queue ++ s.slot.toList

/-- The waiting permit of a car (R37). -/
def State.waitingOf (s : State) (n : CarName) : Option Waiting := s.waiting.find? fun w => w.car = n

/-- The admitted permit of a car (R122). -/
def State.runOf (s : State) (n : CarName) : Option Run := (s.car n).bind Car.run

/-- Whether a permit state is STARTED-WAIT or RUNNING. -/
def RunState.inFlight : RunState → Bool
  | .startedWait _ | .running _ => true
  | .grace _ _ => false

/-- Code of an admitted permit's state (section 12.6). -/
def RunState.code : RunState → Nat
  | .startedWait _ => 2
  | .running _ => 3
  | .grace _ _ => 4

/-- Class and state code of a car's live permit (R37, R39): 0 QUEUED, 1 DEFERRED, or the state of its run. -/
def State.livePermit (s : State) (n : CarName) : Option (RunClass × Nat) :=
  match s.runOf n with
  | some r => some (r.permit.cls, r.state.code)
  | none =>
    match s.queue.find? fun w => w.car = n with
    | some w => some (w.permit.cls, 0)
    | none =>
      match s.slot with
      | some w => if w.car = n then some (w.permit.cls, 1) else none
      | none => none

/-- D of a MOTOR permit, 0 of a REGEN permit. -/
def Permit.motorDemand (p : Permit) : Nat := if p.kind = .motor then p.demand else 0

/-- G of a REGEN permit, 0 of a MOTOR permit. -/
def Permit.regenDemand (p : Permit) : Nat := if p.kind = .regen then p.demand else 0

/-! ### Load totals and derived figures -/

/-- The sum of a figure over the configured cars. -/
def State.sumCars (s : State) (f : CarName → Car → Nat) : Nat :=
  (carNames.map fun n => match s.car n with | some c => f n c | none => 0).sum

/-- The sum of I over configured cars whose powered flag is set and whose motion is not OUT (UNPOWERED) (R58). -/
def State.idleLoad (s : State) : Nat :=
  s.sumCars fun n c => if c.powered && c.motion ≠ .out .unpowered then (s.table.cars[n]).i else 0

/-- BL: 0 while held, else the idle load (R12, R58). -/
def State.baseLoad (s : State) : Nat := if s.blHeld then 0 else s.idleLoad

/-- The sum of D over all MOTOR permits plus M for each car under unpermitted-motion reservation (R59). -/
def State.motorLoad (s : State) : Nat :=
  (s.waiting.map fun w => w.permit.motorDemand).sum +
  s.sumCars fun n c =>
    (match c.run with | some r => r.permit.motorDemand | none => 0) + (if c.unpermitted then (s.table.cars[n]).m else 0)

/-- The sum of G over all REGEN permits (R59). -/
def State.regenLoad (s : State) : Nat :=
  (s.waiting.map fun w => w.permit.regenDemand).sum +
  s.sumCars fun _ c => match c.run with | some r => r.permit.regenDemand | none => 0

/-- The totals and the derived figures brought up to date with what they are formed from (R56, R58, R59). -/
def State.refresh (s : State) : State :=
  { s with
    bl := s.baseLoad, ml := s.motorLoad, rl := s.regenLoad,
    usable := min s.offered s.table.site.eMax,
    absorbRoom := s.absorb + s.baseLoad,
    stepMax := min s.offered s.table.site.eMax * s.profile.stepPercent / 100,
    peak := min s.offered s.table.site.eMax + min s.offered s.table.site.eMax * s.profile.overloadPercent / 100 }

/-- Over-commitment on the motoring side (R64). -/
def State.motorOver (s : State) : Bool := s.peak < s.bl + s.ml

/-- Over-commitment on the absorb side (R64). -/
def State.absorbOver (s : State) : Bool := s.absorbRoom < s.rl

/-- Over-commitment (R64). -/
def State.overCommitted (s : State) : Bool := s.motorOver || s.absorbOver

/-- The amounts of the shed credits of one side (R65). -/
def State.credits (s : State) (side : Kind) : Nat :=
  s.sumCars fun _ c => match c.credit with | some x => if x.side = side then x.amount else 0 | none => 0

/-- The motoring side is expected over (R65). -/
def State.motorExpectedOver (s : State) : Bool := s.peak < s.bl + s.ml - s.credits .motor

/-- The absorb side is expected over (R65). -/
def State.absorbExpectedOver (s : State) : Bool := s.absorbRoom < s.rl - s.credits .regen

/-- Whether the side of a kind is expected over (R65). -/
def State.expectedOver (s : State) : Kind → Bool
  | .motor => s.motorExpectedOver
  | .regen => s.absorbExpectedOver

/-! ### Accounts -/

/-- A group is over budget while its account exceeds its LIMIT (R74). -/
def State.overBudget (s : State) (g : GroupNo) : Bool := (s.table.groups[g]).limit < s.accounts[g]

/-- Service is over budget while the service account exceeds SVC_LIMIT (R74). -/
def State.serviceOverBudget (s : State) : Bool := s.table.site.svcLimit < s.serviceAccount

/-! ### Summaries and clearance -/

/-- The summarised fields of a car (R39). -/
def State.summary (s : State) (n : CarName) (c : Car) : CarSummary :=
  { car := n, position := c.position, between := c.between, door := c.door, load := c.load, occupied := c.occupied,
    fire := c.fire, fault := c.fault, faultCode := if c.fault then c.faultCode else 0#8, powered := c.powered,
    motion := c.motion, step := c.step, owner := c.owner, attempts := c.attempts, permit := s.livePermit n,
    saved := c.saved.isSome }

/-- A car counts as in motion for the handshake: it holds an admitted permit, shows the moving flag, or is under an
unpermitted-motion reservation (R152, R153). -/
def Car.inMotion (c : Car) : Bool := c.run.isSome || c.moving || c.unpermitted

/-- The number of configured cars in motion (R153). -/
def State.movingCount (s : State) : Nat := s.sumCars fun _ c => if c.inMotion then 1 else 0

/-- The CLEAR condition under a recorded kind (R152). -/
def State.clearCondition (s : State) (kind : TransKind) : Bool :=
  s.movingCount = 0 && (kind = .openTransition || (!s.filtered && !s.trip))

/-- The recall is complete: every configured car is in step PARKED, SHUT or GIVEN_UP, or has motion OUT (R146). -/
def State.recallComplete (s : State) : Bool :=
  carNames.all fun n =>
    match s.car n with
    | some c => c.step = .parked || c.step = .shut || c.step = .givenUp || c.motion.isOut
    | none => true

end Sys2Proof.Machine
end

