-- ==== Sys2Proof/Machine/Ops.lean ====
section
/-! DEFINITION. The named operations over the state that the meanings share: sending, timers, car records, orders, request entries,
permits and their refund, the run actions, and going OUT. -/

namespace Sys2Proof.Machine

/-! ### Sending and time -/

/-- A step begins with nothing on the links. -/
def State.begin (s : State) : State := { s with outbox := [] }

/-- Sends a message on a port; on a DOWN link the part transmits nothing (R158). -/
def State.emit (s : State) (p : Port) (m : OutMsg) : State :=
  if s.portUp p then { s with outbox := s.outbox ++ [(p, m)] } else s

/-- Sends a message on a group link. -/
def State.toGroup (s : State) (g : GroupNo) (m : OutMsg) : State := s.emit (.link (.group g)) m

/-- Sends a message on the panel link. -/
def State.toPanel (s : State) (m : OutMsg) : State := s.emit (.link .panel) m

/-- Sends a message on the power link. -/
def State.toPower (s : State) (m : OutMsg) : State := s.emit (.link .power) m

/-- Sends LOAD with the current figures (R63). -/
def State.sendLoad (s : State) : State := s.toPower (.load s.usable s.bl s.ml s.rl)

/-- The clock runs on to a time, if it has not passed it: what an expiry command does with its timer's end (assumption 1). -/
def State.reach (s : State) (t : Nat) : State := { s with now := max s.now t }

/-- The end of a timer of a length in tenths of a second that starts now. -/
def State.inTenths (s : State) (n : Nat) : Nat := s.now + n * Config.tenth

/-- The end of a timer of a length in seconds that starts now. -/
def State.inSeconds (s : State) (n : Nat) : Nat := s.now + n * Config.second

/-- Applies an operation to every car name in ascending order. -/
def State.forCars (s : State) (f : CarName → State → State) : State := carNames.foldl (fun acc n => f n acc) s

/-- The Selector is told of an event that can change a selection's outcome (R88). -/
def State.askSelection (s : State) : State := { s with selectionDue := true }

/-! ### Car records -/

/-- Writes the record of a car. -/
def State.putCar (s : State) (n : CarName) (c : Car) : State := { s with cars := s.cars.set n (some c) }

/-- Changes the record of a configured car; an absent record stays absent. -/
def State.modCar (s : State) (n : CarName) (f : Car → Car) : State :=
  match s.car n with
  | some c => s.putCar n (f c)
  | none => s

/-- Sets the motion state of a car. -/
def State.setMotion (s : State) (n : CarName) (m : Motion) : State := s.modCar n fun c => { c with motion := m }

/-- The car becomes STILL or STRANDED by the rest test (R25). -/
def State.comeToRest (s : State) (n : CarName) : State := s.modCar n fun c => { c with motion := c.restMotion }

/-! ### Orders (R34) -/

/-- The ORDER message of a standing order. OPEN_DWELL carries its time in tenths of a second (R160). -/
def Order.message (c : CarNo) : Order → OutMsg
  | .stay => .order c .stay 0
  | .openDwell remaining => .order c .openDwell (remaining / Config.tenth)
  | .park doors => .order c .park doors.code
  | .shut => .order c .shut 0
  | .powerUp => .order c .powerUp 0
  | .release => .order c .release 0

/-- The standing order as it reads now: while the dwell timer runs, OPEN_DWELL holds the timer's remaining time (R34). -/
def Car.orderNow (c : Car) (now : Nat) : Option Order :=
  match c.order, c.dwell with
  | some (.openDwell _), some ends => some (.openDwell (ends - now))
  | o, _ => o

/-- Issues a standing order: it replaces the standing order, and is sent if the link is UP (R34). -/
def State.giveOrder (s : State) (n : CarName) (o : Order) : State :=
  if s.configured n then (s.modCar n fun c => { c with order := some o }).toGroup (groupOf n) (o.message (numberOf n)) else s

/-- Sends STOP_NOW, which is no standing order (R34). -/
def State.stopNow (s : State) (n : CarName) : State := s.toGroup (groupOf n) (.order (numberOf n) .stopNow 0)

/-- Sends STOP_NEXT, which is no standing order (R34). -/
def State.stopNext (s : State) (n : CarName) : State := s.toGroup (groupOf n) (.order (numberOf n) .stopNext 0)

/-- Sends REFUSE for a car of a group. -/
def State.refuse (s : State) (n : CarName) (reason : RefuseReason) : State :=
  s.toGroup (groupOf n) (.refuse (byteOf (numberOf n).val) reason)

/-- Stops the dwell timer; the standing order keeps the remaining time of that moment (R34, R145). -/
def State.stopDwell (s : State) (n : CarName) : State :=
  s.modCar n fun c => { c with order := c.orderNow s.now, dwell := none }

/-! ### Request entries (R82) -/

/-- The entry of a car in its group's request list (R82). -/
def State.entryOf (s : State) (n : CarName) : Option Entry := (s.requests[groupOf n]).find? fun e => e.car = n

/-- An entry joins a list by its arrival time, after those of the same time (R82). -/
def insertEntry (e : Entry) : List Entry → List Entry
  | [] => [e]
  | x :: rest => if x.arrival ≤ e.arrival then x :: insertEntry e rest else e :: x :: rest

/-- Removes a car's entry from its list; a removal of the marked entry removes the starvation-guard mark (R87, R94). -/
def State.removeEntry (s : State) (n : CarName) : State :=
  match s.entryOf n with
  | some _ =>
    { s with
      requests := s.requests.set (groupOf n) ((s.requests[groupOf n]).filter fun e => e.car ≠ n),
      mark := if s.mark = some n then none else s.mark }
  | none => s

/-- A RECALL entry is trapped while the occupied flag is set and the door is not OPEN (R83). -/
def Car.isTrapped (c : Car) : Bool := c.occupied && c.door ≠ .opened

/-- Creates an entry for a car, in place of any it has; the car becomes REQUESTED, and awaits no plan any more (R82). -/
def State.addEntry (s : State) (n : CarName) (cls : RunClass) (destination : Option Landing) (arrival : Nat) : State :=
  let s := s.removeEntry n
  let trapped := cls = .recall && s.carIs n Car.isTrapped
  let e : Entry := { car := n, cls := cls, destination := destination, trapped := trapped, arrival := arrival }
  { s with requests := s.requests.set (groupOf n) (insertEntry e (s.requests[groupOf n])) }.modCar n fun c =>
    { c with motion := .requested, planDue := false }

/-- FIRE while the fire flag is set, SERVICE otherwise (R83, R85). -/
def State.requestClass (s : State) (n : CarName) : RunClass := if s.carIs n Car.fire then .fire else .service

/-- A car whose owner changes away from GROUP loses its FIRE or SERVICE entry, with REFUSE CANCELLED (R87); whether that goes out before or
after the order of the change is settled where the order is given (assumption 67). -/
def State.dropGroupEntry (s : State) (n : CarName) : State :=
  match s.entryOf n with
  | some e => if e.cls = .recall then s else ((s.removeEntry n).refuse n .cancelled).comeToRest n
  | none => s

/-- Changes the recovery step. A change of owner away from GROUP removes the car's FIRE or SERVICE entry (R87); leaving PARKED and
SHUT clears the no-landing mark, which is set only while the car is parked in place (R136, assumption 14). -/
def State.setStep (s : State) (n : CarName) (step : RecoveryStep) : State :=
  match s.car n with
  | some c =>
    let s := s.putCar n { c with step := step, noLanding := c.noLanding && (step = .parked || step = .shut) }
    if c.owner = .group ∧ step.owner ≠ .group then s.dropGroupEntry n else s
  | none => s

/-! ### Waiting permits: refund and CANCEL (R73, R131) -/

/-- Subtracts a permit's recorded charges from the accounts, each stopping at 0 (R73). -/
def State.refund (s : State) (n : CarName) (p : Permit) : State :=
  { s with
    accounts := s.accounts.set (groupOf n) (s.accounts[groupOf n] - p.groupCharge),
    serviceAccount := s.serviceAccount - p.serviceCharge }

/-- Takes a car's permit out of the start queue and the deferral slot. -/
def State.dropWaiting (s : State) (n : CarName) : State :=
  { s with
    queue := s.queue.filter fun w => w.car ≠ n,
    slot := s.slot.filter fun w => w.car ≠ n }

/-- The CANCEL run action on a queued or deferred permit: it leaves, its charges are refunded and its demand is released with it. The
car's motion is the cause's (R131). -/
def State.cancelWaiting (s : State) (n : CarName) : State :=
  match s.waitingOf n with
  | some w => (s.refund n w.permit).dropWaiting n
  | none => s

/-- A cancelled or removed SERVICE or FIRE request is answered to its group with REFUSE CANCELLED. -/
def State.answerCancelled (s : State) (n : CarName) (cls : RunClass) : State :=
  if cls = .recall then s else s.refuse n .cancelled

/-- Removes a car's entry or cancels its waiting permit, answering a SERVICE or FIRE one (R26, R27, R28). -/
def State.dispose (s : State) (n : CarName) : State :=
  match s.entryOf n with
  | some e => (s.removeEntry n).answerCancelled n e.cls
  | none =>
    match s.waitingOf n with
    | some w => (s.cancelWaiting n).answerCancelled n w.permit.cls
    | none => s

/-! ### Admitted runs and the run actions (R131, R132) -/

/-- Ends a run: the permit is discarded with its demand, its origin record and any shed credit for it (R59, R65). -/
def State.dropRun (s : State) (n : CarName) : State := s.modCar n fun c => { c with run := none, credit := none }

/-- Strength of a run action (R131). -/
def ActionKind.strength : ActionKind → Nat
  | .complete => 1
  | .curtail => 2
  | .abandon => 3

/-- No follow-up flag. -/
def FollowUps.clear : FollowUps := ⟨false, false, false⟩

/-- The flags of two records together (R132). -/
def FollowUps.join (a b : FollowUps) : FollowUps :=
  ⟨a.parkAfter || b.parkAfter, a.reclaimAfter || b.reclaimAfter, a.rerequestAfter || b.rerequestAfter⟩

/-- The pending action record after an action on a run reaches a car (R132): the stronger kind, the flags of both. Class and destination are
those of the run that the action reaches, also where the record is of an earlier run (assumption 23). -/
def combineAction (old : Option PendingAction) (kind : ActionKind) (flags : FollowUps) (p : Permit) : PendingAction :=
  match old with
  | none => { kind := kind, flags := flags, cls := p.cls, destination := p.destination }
  | some x =>
    { kind := if x.kind.strength < kind.strength then kind else x.kind, flags := x.flags.join flags,
      cls := p.cls, destination := p.destination }

/-- Whether an action has its effects: there is no record, or it is stronger than the record (R132). -/
def actionTakes (old : Option PendingAction) (kind : ActionKind) : Bool :=
  match old with
  | none => true
  | some x => x.kind.strength < kind.strength

/-- COMPLETE: the run goes on, and the flags are recorded for its end (R131). -/
def State.completeRun (s : State) (n : CarName) (flags : FollowUps) : State :=
  s.modCar n fun c =>
    match c.run with
    | some r => { c with pending := some (combineAction c.pending .complete flags r.permit) }
    | none => c

/-- CURTAIL: STOP_NEXT, motion STOPPING, unless the permit is in GRACE; the reservation is held to the run's end (R131). -/
def State.curtailRun (s : State) (n : CarName) (flags : FollowUps) : State :=
  match s.car n with
  | some c =>
    match c.run with
    | some r =>
      let recorded := { c with pending := some (combineAction c.pending .curtail flags r.permit) }
      if actionTakes c.pending .curtail && r.state.inFlight then
        (s.putCar n { recorded with motion := .stopping }).stopNext n
      else s.putCar n recorded
    | none => s
  | none => s

/-- ABANDON: STOP_NOW, the permit discarded without refund, motion STRANDED; a RECALLING car of a recall run returns to RECALL_DUE
(R131, R142). Its effects are made on every admitted permit it reaches (assumption 15). -/
def State.abandonRun (s : State) (n : CarName) : State :=
  match s.car n with
  | some c =>
    match c.run with
    | some r =>
      let s := (s.putCar n { c with
        run := none, credit := none, motion := .stranded,
        pending := some (combineAction c.pending .abandon .clear r.permit) }).stopNow n
      if r.permit.cls = .recall ∧ c.step = .recalling then s.setStep n .recallDue else s
    | none => s
  | none => s

/-- Whether a CURTAIL or ABANDON is pending against a car (R68, R95, R117). -/
def Car.stopsAlready (c : Car) : Bool :=
  match c.pending with
  | some x => x.kind ≠ .complete
  | none => false

/-- A serial-ordered list of cars, youngest grant first (R66, R95, R117). -/
def insertYoungest (x : CarName × Permit) : List (CarName × Permit) → List (CarName × Permit)
  | [] => [x]
  | y :: rest => if y.2.serial < x.2.serial then x :: y :: rest else y :: insertYoungest x rest

/-- Youngest grant first. -/
def youngestFirst (l : List (CarName × Permit)) : List (CarName × Permit) := l.foldr insertYoungest []

/-- The waiting SERVICE permits, youngest grant first; deferred and queued permits form one series (R66, R95). -/
def State.waitingService (s : State) : List (CarName × Permit) :=
  youngestFirst ((s.waiting.filter fun w => w.permit.cls = .service).map fun w => (w.car, w.permit))

/-- The SERVICE permits in STARTED-WAIT or RUNNING whose cars have no CURTAIL or ABANDON pending, youngest grant first
(R68, R95, R117). -/
def State.runningService (s : State) : List (CarName × Permit) :=
  youngestFirst (carNames.filterMap fun n =>
    match s.car n with
    | some c =>
      match c.run with
      | some r => if r.permit.cls = .service && r.state.inFlight && !c.stopsAlready then some (n, r.permit) else none
      | none => none
    | none => none)

/-! ### Out of use and unpermitted motion -/

/-- Entry to OUT: the reason is recorded, the pending record discarded, any entry removed, the dwell timer stopped, and the car leaves
its service set (R30, R143). The cause has already disposed of a permit. -/
def State.goOut (s : State) (n : CarName) (r : OutReason) : State :=
  ((s.removeEntry n).stopDwell n).modCar n fun c => { c with motion := .out r, pending := none, member := none }

/-- The start of an unpermitted-motion episode: reservation of M, STOP_NOW, ALERT UNPERMITTED, once per episode (R60, R134). STOP_NOW goes
out while a takeover is SETTLING too (R14, assumption 64). -/
def State.unpermittedMotion (s : State) (n : CarName) : State :=
  match s.car n with
  | some c =>
    if c.unpermitted then s
    else ((s.putCar n { c with unpermitted := true }).stopNow n).toPanel (.alert (.unpermitted n c.position))
  | none => s

/-- The end of an unpermitted-motion reservation (R60, R134). -/
def State.endUnpermitted (s : State) (n : CarName) : State := s.modCar n fun c => { c with unpermitted := false }

/-! ### Phase notices (R4, R79) -/

/-- PHASE on every group link and the panel link that is UP. -/
def State.phaseNotice (s : State) : State :=
  (groupNos.foldl (fun acc g => acc.toGroup g (.phase acc.phase acc.window)) s).toPanel (.phase s.phase s.window)

end Sys2Proof.Machine
end

