-- ==== Sys2Proof/Machine/Demand.lean ====
section
/-! DEFINITION. The Demand Calculator (chapter 3): run kind, demand, start demand, run units and floors of a prospective run. -/

namespace Sys2Proof.Machine

/-- Division rounded up, written ceil(a / d) (R44). -/
def ceilDiv (a d : Nat) : Nat := (a + d - 1) / d

/-- The result of the calculator (R41). The locate flag is that of the entry. -/
structure Figures where
  kind : Kind
  demand : Nat
  start : Nat
  units : Nat
  floors : Nat
  deriving DecidableEq, Repr

/-- Run units: demand times length over 64, rounded up, held within 1 to 4095 (R52). -/
def runUnits (demand length : Nat) : Nat := max 1 (min 4095 (ceilDiv (demand * length) 64))

/-- The figures of a MOTOR run of a demand: S = ceil(D × K / 100) (R46, R47, R50). -/
def motorFigures (r : CarSection) (demand floors : Nat) : Figures :=
  { kind := .motor, demand := demand, start := ceilDiv (demand * r.k) 100, units := runUnits demand (floors + 2), floors := floors }

/-- The locate path (R46). -/
def locateFigures (r : CarSection) : Figures := motorFigures r (ceilDiv (r.m * 30) 100) 1

/-- The normalised imbalance n from the size of the imbalance (R48). -/
def normalised (r : CarSection) (imbalance : Nat) : Nat := min 100 (ceilDiv (imbalance * 100) (100 - r.b))

/-- A motoring run of a normalised imbalance (R50). -/
def motoringFigures (r : CarSection) (n floors : Nat) : Figures := motorFigures r (ceilDiv (r.m * max n 10) 100) floors

/-- A regenerating run of a normalised imbalance (R51): REGEN when G is at least 1, else the floor-demand motoring run. -/
def regenFigures (r : CarSection) (n floors : Nat) : Figures :=
  let g := r.m * n * r.reff / 10000
  if 1 ≤ g then
    { kind := .regen, demand := g, start := ceilDiv (r.m * 10 * r.k) 10000, units := runUnits g (floors + 2), floors := floors }
  else motorFigures r (ceilDiv (r.m * 10) 100) floors

/-- The heavy-side test: the heavy side motors when it rises and regenerates when it descends; a balanced car motors (R49). -/
def isRegenerating (up : Bool) (load balance : Nat) : Bool :=
  if load = balance then false else if balance < load then !up else up

/-- The figures of a run to a destination from a position (R43, R45). -/
def runFigures (r : CarSection) (load : Option Nat) (position destination : Nat) : Option Figures :=
  if position = destination then none
  else
    let up : Bool := position < destination
    let floors := if up then destination - position else position - destination
    match load with
    | none => some (motorFigures r r.m floors)
    | some lp =>
      let n := normalised r (if r.b ≤ lp then lp - r.b else r.b - lp)
      some (if isRegenerating up lp r.b then regenFigures r n floors else motoringFigures r n floors)

/-- The calculator's answer for an entry, from the ratings in effect and the car's record as they stand (R41, R43, R45). -/
def State.figures (s : State) (e : Entry) : Option Figures :=
  match s.car e.car with
  | none => none
  | some c =>
    match e.destination with
    | none => some (locateFigures (s.table.cars[e.car]))
    | some d =>
      match c.position with
      | some p => runFigures (s.table.cars[e.car]) c.load p.val d.val
      | none => none

end Sys2Proof.Machine
end

