-- ==== Sys2Proof/Machine/Pacer.lean ====
section
/-! DEFINITION. The Start Pacer's states and orders (chapter 7), and the Strain Monitor's orders to it (chapter 8). -/

namespace Sys2Proof.Machine

/-- The staged profile becomes active, and the staged profile becomes absent (R112). The derived figures follow (R56). -/
def State.activateStaged (s : State) : State :=
  match s.staged with
  | some p => { s with profile := p, staged := none }.refresh
  | none => s

/-- Entry to HALTED: the state timer stops, the admitted mark clears, a staged profile becomes active (R104). -/
def State.haltPacer (s : State) : State :=
  { s with pacer := .halted, pacerTimer := none, admitted := false }.activateStaged

/-- Entry to OPEN_A: timed under SPLIT mode only (R106, R107). -/
def State.enterOpenA (s : State) : State :=
  { s with
    pacer := .openA, admitted := false,
    pacerTimer := if s.profile.mode = .split then some (s.inTenths s.profile.openA) else none }

/-- Entry to OPEN_B (R107). -/
def State.enterOpenB (s : State) : State :=
  { s with pacer := .openB, admitted := false, pacerTimer := some (s.inTenths s.profile.openB) }

/-- Entry to SETTLE_A; a duration of 0.0 s expires at entry (R105, R106). -/
def State.enterSettleA (s : State) : State :=
  let s := { s with pacer := .settleA, admitted := false, pacerTimer := some (s.inTenths s.profile.settleA) }
  if s.profile.settleA = 0 then s.enterOpenA else s

/-- Entry to SETTLE_B; a duration of 0.0 s expires at entry (R107, assumption 16). -/
def State.enterSettleB (s : State) : State :=
  let s := { s with pacer := .settleB, pacerTimer := some (s.inTenths s.profile.settleB) }
  if s.profile.settleB = 0 then s.enterOpenB else s

/-- The end of a cycle: the staged profile becomes active, then SETTLE_A is entered (R112). -/
def State.endCycle (s : State) : State := s.activateStaged.enterSettleA

/-- The pacer leaves an OPEN state, by admission or by expiry (R106, R107). -/
def State.leaveOpen (s : State) : State :=
  match s.pacer with
  | .openA => if s.profile.mode = .split then s.enterSettleB else s.endCycle
  | .openB => s.endCycle
  | _ => s

/-- Whether the pacer is in one of the four states of the cycle. -/
def PacerState.cycling : PacerState → Bool
  | .settleA | .openA | .settleB | .openB => true
  | .halted | .hold | .waitRestart => false

/-- The move to HOLD or WAIT_RESTART: the state timer stops, the admitted mark clears, a staged profile becomes active (R110). -/
def State.moveTo (s : State) (p : PacerState) : State :=
  { s with pacer := p, pacerTimer := none, admitted := false }.activateStaged

/-- A hold order (R104, R110). -/
def State.holdOrder (s : State) : State :=
  if s.pacer.cycling || (s.pacer = .halted && s.phase = .takeover) then s.moveTo .hold else s

/-- A wait order (R104, R110). -/
def State.waitOrder (s : State) : State :=
  if s.pacer.cycling || s.pacer = .hold || (s.pacer = .halted && s.phase = .takeover) then s.moveTo .waitRestart else s

/-- A resume: from HOLD or WAIT_RESTART to SETTLE_A, or to HALTED while the phase is TAKEOVER (R110). -/
def State.resume (s : State) : State :=
  if s.pacer = .hold || s.pacer = .waitRestart then
    if s.phase = .takeover then s.haltPacer else s.enterSettleA
  else s

/-- ALERT WAIT_RESTART with a restart number, 0 where no RESTART is answered (R162). -/
def State.alertWaitRestart (s : State) (number : Byte) : State := s.toPanel (.alert (.waitRestart number s.trip s.filtered))

/-- The pacer leaves HALTED by the Strain Monitor's answer (R105, R118); a departure into WAIT_RESTART is announced. -/
def State.leaveHalted (s : State) : State :=
  let mode := s.table.site.strainMode
  if s.trip then
    if mode = .operator then (s.moveTo .waitRestart).alertWaitRestart 0#8 else s.moveTo .hold
  else if s.filtered then
    match mode with
    | .operator => (s.moveTo .waitRestart).alertWaitRestart 0#8
    | .hold | .holdShed => s.moveTo .hold
    | .note => s.enterSettleA
  else s.enterSettleA

/-- A release of the strain or of the trip gives a resume to a pacer in HOLD once both are clear (R118). -/
def State.resumeIfClear (s : State) : State :=
  if s.pacer = .hold && !s.trip && !s.filtered then s.resume else s

/-! ### Strain (R114 to R117) -/

/-- HOLD_SHED curtails every admitted SERVICE run not already stopping, youngest grant first, with no shed credit (R117). -/
def State.curtailService (s : State) : State :=
  s.runningService.foldl (fun acc x => acc.curtailRun x.1 .clear) s

/-- What an asserted filtered strain does in a standby phase: ALERT DISTRESS, then the strain mode (R116). -/
def State.strainActs (s : State) : State :=
  let mode := s.table.site.strainMode
  let s := s.toPanel (.alert (.distress mode s.pacer))
  match mode with
  | .note => s
  | .hold => s.holdOrder
  | .holdShed => s.holdOrder.curtailService
  | .operator => s.waitOrder.alertWaitRestart 0#8

/-- The filtered strain becomes asserted; outside a standby phase it is only recorded (R114, R116). -/
def State.assertFiltered (s : State) : State :=
  let s := { s with filtered := true, filterTimer := none }
  if s.standby then s.strainActs else s

/-- The filter starts with the line asserted: a filter time of 0 ms asserts the filtered strain at once (R114). -/
def State.startFilter (s : State) : State :=
  if s.filtered then s
  else if s.table.site.filterTime = 0 then s.assertFiltered
  else { s with filterTimer := some (s.now + s.table.site.filterTime) }

/-- An entry to the standby class, to TAKEOVER, or to PRE_TRANSFER from a standby phase finds the filtered strain asserted and acts as
though it had just been made (R116). -/
def State.strainAtEntry (s : State) : State := if s.filtered && s.standby then s.strainActs else s

/-- Blanking begins at an admission, if the blanking time is above 0.0 s (R115). -/
def State.startBlanking (s : State) : State :=
  if s.table.site.blankingTime = 0 then s
  else { s with blankTimer := some (s.inTenths s.table.site.blankingTime), filterTimer := none, filtered := false }

end Sys2Proof.Machine
end

