-- ==== Sys2Proof/Machine/Planner.lean ====
section
/-! DEFINITION. The Recall Planner (chapter 10): recall landing, planning, arrival effect, recall failure, dwell and park, the service set. -/

namespace Sys2Proof.Machine

/-- A site-table landing as a landing. -/
def toLanding (n : Nat) : Landing := ⟨n % 128, Nat.mod_lt _ (by decide)⟩

/-- The primary and the alternate for a position: of the first zone that holds it, else the group's defaults (R138). -/
def GroupSection.landingsFor (x : GroupSection) (position : Landing) : Landing × Landing :=
  match x.zones.find? fun z => z.low ≤ position.val && position.val ≤ z.high with
  | some z => (toLanding z.primary, toLanding z.alternate)
  | none => (toLanding x.defaultPrimary, toLanding x.defaultAlternate)

/-- The recall landing of a car of a group at a position: the primary unless it is blocked, else the alternate unless it is blocked
(R138). -/
def State.recallLanding (s : State) (g : GroupNo) (position : Landing) : Option Landing :=
  let two := (s.table.groups[g]).landingsFor position
  if (s.blocked[g]).contains two.1 then (if (s.blocked[g]).contains two.2 then none else some two.2) else some two.1

/-- A car stands at its recall landing: it passes the rest test at that landing (R137). -/
def State.atRecallLanding (s : State) (n : CarName) (c : Car) : Bool :=
  match c.position with
  | some p => c.rests && s.recallLanding (groupOf n) p = some p
  | none => false

/-- A car that passes the rest test at a landing for which there is no recall landing (R138). -/
def State.noRecallLanding (s : State) (n : CarName) (c : Car) : Bool :=
  match c.position with
  | some p => c.rests && s.recallLanding (groupOf n) p = none
  | none => false

/-- The park doors of a car's group. -/
def State.parkOrder (s : State) (n : CarName) : Order := .park (s.table.groups[groupOf n]).parkDoors

/-- A car becomes PARKED with ORDER PARK (R137, R145, R149). DESIGN CHOICE: the REFUSE CANCELLED of an entry that the change of owner removes
goes out before PARK, an order of messages that R87 leaves open (assumption 67). -/
def State.park (s : State) (n : CarName) : State := (s.setStep n .parked).giveOrder n (s.parkOrder n)

/-- A car at a landing with no recall landing is parked in place: its RECALL entry goes, it is PARKED, its no-landing mark is set,
ALERT NO_RECALL_LANDING (R138). -/
def State.parkInPlace (s : State) (n : CarName) : State :=
  match s.car n with
  | some c =>
    let s := if (s.entryOf n).isSome then (s.removeEntry n).comeToRest n else s
    let s := (s.park n).modCar n fun x => { x with noLanding := true, planDue := false }
    match c.position with
    | some p =>
      let two := (s.table.groups[groupOf n]).landingsFor p
      s.toPanel (.alert (.noRecallLanding n p two.1 two.2))
    | none => s
  | none => s

/-- A dwell begins: step DWELL, ORDER OPEN_DWELL with the group's dwell time, dwell timer (R145). -/
def State.startDwell (s : State) (n : CarName) : State :=
  let length := (s.table.groups[groupOf n]).dwellTime * Config.second
  ((s.setStep n .dwell).giveOrder n (.openDwell length)).modCar n fun c =>
    { c with dwell := some (s.now + length), planDue := false }

/-- The entry for a car in RECALL_DUE, with an arrival time: a locate entry if it fails the rest test, a recall entry to its recall
landing, or parked in place where there is none (R137, R142). A car at its recall landing dwells without a run (R43). A car under
unpermitted motion is given no entry until it comes to rest (R134), and a car that holds a permit is given none (R82, assumption 17). -/
def State.recallEntry (s : State) (n : CarName) (arrival : Nat) : State :=
  match s.car n with
  | some c =>
    if c.unpermitted || c.run.isSome then s
    else if c.rests then
      match c.position with
      | some p =>
        match s.recallLanding (groupOf n) p with
        | some l => if l = p then s.startDwell n else s.addEntry n .recall (some l) arrival
        | none => s.parkInPlace n
      | none => s.addEntry n .recall none arrival
    else s.addEntry n .recall none arrival
  | none => s

/-- A car becomes RECALL_DUE, with ORDER STAY unless its step was already AWAITING or RECALL_DUE (R137). DESIGN CHOICE: STAY goes out before
the REFUSE CANCELLED of an entry that the change of owner removes, an order of messages that R87 leaves open (assumption 67). -/
def State.becomeDue (s : State) (n : CarName) : State :=
  match s.car n with
  | some c =>
    if c.step = .awaiting ∨ c.step = .recallDue then s.setStep n .recallDue
    else (s.giveOrder n .stay).setStep n .recallDue
  | none => s

/-- RECALL_DUE with the entry that its place calls for, or parked in place at once (R137, R138). -/
def State.sendToRecall (s : State) (n : CarName) : State :=
  match s.car n with
  | some c =>
    if s.noRecallLanding n c && !c.unpermitted && c.run.isNone then s.parkInPlace n else (s.becomeDue n).recallEntry n s.tenths
  | none => s

/-- Planning a car from a step (R137). A car under unpermitted motion is taken as stranded (R28, R134). -/
def State.planFrom (s : State) (n : CarName) (step : RecoveryStep) : State :=
  match s.car n with
  | some c =>
    if c.motion.isOut then s
    else
      match step with
      | .awaiting | .recallDue | .recalling | .dwell =>
        if s.atRecallLanding n c && !c.unpermitted && c.run.isNone then s.startDwell n else s.sendToRecall n
      | .parked | .service => if c.rests && !c.unpermitted then s.park n else s.sendToRecall n
      | .shut | .givenUp | .normal => s
  | none => s

/-- Planning a car from the step it holds (R137). -/
def State.plan (s : State) (n : CarName) : State :=
  match s.car n with
  | some c => s.planFrom n c.step
  | none => s

/-- A car with its no-landing mark set, PARKED, in no service set and not OUT (R139). -/
def Car.parkedInPlace (c : Car) : Bool := c.noLanding && c.step = .parked && c.member.isNone && !c.motion.isOut

/-- Its mark is cleared and it is planned from step RECALL_DUE (R139). -/
def State.replanInPlace (s : State) (n : CarName) : State :=
  (s.modCar n fun c => { c with noLanding := false }).planFrom n .recallDue

/-- The examination of a car parked in place, at step 5 of takeover and on a return from PRE_TRANSFER (R139, R155): whether it is now
planned from RECALL_DUE. -/
def State.mayLeavePlace (s : State) (n : CarName) (c : Car) : Bool :=
  c.parkedInPlace && (match c.position with | some p => (s.recallLanding (groupOf n) p).isSome | none => false)

/-- The arrival effect of a car in RECALLING or RECALL_DUE at rest at a landing (R141). -/
def State.arrivalEffect (s : State) (n : CarName) : State :=
  match s.car n with
  | some c =>
    if s.atRecallLanding n c then s.startDwell n
    else if s.noRecallLanding n c then s.parkInPlace n
    else (s.setStep n .recallDue).recallEntry n s.tenths
  | none => s

/-- The attempts count rises by one, up to the site maximum (R33). -/
def State.countAttempt (s : State) (n : CarName) : State :=
  s.modCar n fun c => { c with attempts := min (c.attempts + 1) s.table.site.attempts }

/-- The car is given up: step GIVEN_UP, any RECALL entry removed, ALERT GIVEN_UP; no order (R142). -/
def State.giveUp (s : State) (n : CarName) (cause : FailCause) : State :=
  let s := s.setStep n .givenUp
  let s := if (s.entryOf n).isSome then (s.removeEntry n).comeToRest n else s
  (s.modCar n fun c => { c with member := none }).toPanel (.alert (.givenUp n cause))

/-- Whether the attempts count has reached the site maximum (R142). -/
def State.attemptsSpent (s : State) (n : CarName) : Bool := s.carIs n fun c => s.table.site.attempts ≤ c.attempts

/-- The transition of a recall run that has ended as a failure (R142): given up at the maximum, else RECALL_DUE with a new entry. A
car already GIVEN_UP, whose last attempt was counted before, stays so. -/
def State.recallFailed (s : State) (n : CarName) (cause : FailCause) : State :=
  if s.carIs n fun c => c.step = .givenUp then s
  else if s.attemptsSpent n then s.giveUp n cause
  else (s.setStep n .recallDue).recallEntry n s.tenths

/-- A locate entry, whatever place the record shows (R25, R149); in PRE_TRANSFER it waits for the return (R143). -/
def State.locate (s : State) (n : CarName) : State :=
  if s.phase = .preTransfer then s.modCar n fun c => { c with planDue := true }
  else if s.carIs n (fun c => c.unpermitted || c.run.isSome) then s
  else s.addEntry n .recall none s.tenths

/-- A car is reclaimed: it leaves the service set, receives STAY, becomes RECALL_DUE, and is given a locate entry (R143, R149). DESIGN CHOICE:
STAY goes out before the REFUSE CANCELLED of an entry that the change of owner removes (R87, assumption 67). -/
def State.reclaim (s : State) (n : CarName) : State :=
  (((s.modCar n fun c => { c with member := none }).giveOrder n .stay).setStep n .recallDue).locate n

/-- A waiting permit is cancelled with refund and REFUSE CANCELLED, and the car comes to rest (R149). -/
def State.cancelGranted (s : State) (n : CarName) : State := ((s.cancelWaiting n).refuse n .cancelled).comeToRest n

/-- A member leaves its service set, according to its motion (R149). -/
def State.leaveSet (s : State) (n : CarName) : State :=
  match s.car n with
  | some c =>
    let s := s.modCar n fun x => { x with member := none }
    if c.step = .shut then s
    else
      match c.motion with
      | .still | .requested => s.park n
      | .granted => (s.cancelGranted n).park n
      | .starting | .running | .stopping => s.completeRun n ⟨true, true, false⟩
      | .stranded => s.reclaim n
      | .out _ => s
  | none => s

/-- Planning from RECALL_DUE at a report: in PRE_TRANSFER an entry waits for the return, while a dwell and a parking in place are made at
once (R142, R143). -/
def State.planAtRest (s : State) (n : CarName) : State :=
  match s.car n with
  | some c =>
    if s.phase = .preTransfer && !s.atRecallLanding n c && !s.noRecallLanding n c then
      (s.becomeDue n).modCar n fun x => { x with planDue := true }
    else s.planFrom n .recallDue
  | none => s

/-- The car at rest acts as the report tells, for a car that holds no admitted permit (R142, R143). moved says that it comes from a
moving report or to another place. A car that awaits its plan on the return acts only if it has moved. -/
def State.atRestPlan (s : State) (n : CarName) (moved : Bool) : State :=
  match s.car n with
  | some c =>
    let inPhase : Bool := s.phase = .recall || s.phase = .service || (s.phase = .preTransfer && s.standby)
    if !inPhase || c.motion.isOut || c.run.isSome then s
    else
      let idle := (s.entryOf n).isNone && (s.waitingOf n).isNone && (moved || !c.planDue)
      if !c.rests then
        match c.step with
        | .service | .parked => s.reclaim n
        | .dwell => (s.stopDwell n).reclaim n
        | .recallDue => if idle then s.planAtRest n else s
        | _ => s
      else
        match c.step with
        | .dwell => if moved && !s.atRecallLanding n c then (s.stopDwell n).planAtRest n else s
        | .recallDue => if idle then s.planAtRest n else s
        | _ => s
  | none => s

/-! ### The service set (R147, R148, R150) -/

/-- The target of a group (R147). -/
def State.target (s : State) (g : GroupNo) : Nat :=
  match s.selection[g] with
  | .auto => (s.table.groups[g]).serviceCount
  | .car _ => 1
  | .nobody => 0

/-- The candidates of a group, in candidate order (R147). -/
def State.candidatesOf (s : State) (g : GroupNo) : List CarName :=
  match s.selection[g] with
  | .auto => (s.table.groups[g]).releaseOrder.filterMap fun c => if h : c < 8 then some (carOf g ⟨c, h⟩) else none
  | .car c => [carOf g c]
  | .nobody => []

/-- Whether a member counts toward the target: ORDINARY and POWERING do (R147). -/
def Member.counts : Member → Bool
  | .ordinary | .powering => true
  | .fireReleased => false

/-- How many members count toward the target (R147). -/
def State.counted (s : State) (g : GroupNo) : Nat :=
  ((groupCars g).filter fun n => s.carIs n fun c => match c.member with | some m => m.counts | none => false).length

/-- A car is released to its group: ORDER RELEASE, step SERVICE; a shed credit it holds ends (R65, R148). -/
def State.releaseCar (s : State) (n : CarName) (member : Option Member) : State :=
  ((s.setStep n .service).giveOrder n .release).modCar n fun c => { c with member := member, credit := none }

/-- One candidate of the fill: RELEASE of a PARKED car, POWER_UP of a SHUT one whose base demand fits, or passed by (R148). -/
def State.fillWith (s : State) (g : GroupNo) (n : CarName) : State :=
  match s.car n with
  | some c =>
    if s.target g ≤ s.counted g || c.member.isSome then s
    else if c.step = .parked && c.motion = .still then s.releaseCar n (some .ordinary)
    else if c.step = .shut && (!c.motion.isOut || c.motion = .out .unpowered) && s.episode = .closed &&
        s.bl + s.ml + (s.table.cars[n]).i ≤ s.usable then
      (s.giveOrder n .powerUp).modCar n fun x => { x with member := some .powering, credit := none }
    else s
  | none => s

/-- The fill of a group's service set, in phase SERVICE (R148). -/
def State.fillSet (s : State) (g : GroupNo) : State :=
  if s.phase = .service then (s.candidatesOf g).foldl (fun acc n => acc.fillWith g n) s else s

/-- A car is shut: ORDER SHUT, step SHUT (R150). -/
def State.shutCar (s : State) (n : CarName) : State := (s.setStep n .shut).giveOrder n .shut

/-- Shut-when-parked, after the fill: every PARKED car of the group outside its service set (R150). DESIGN CHOICE: in ascending car number
(assumption 56). -/
def State.shutParked (s : State) (g : GroupNo) : State :=
  if s.phase = .service && (s.table.groups[g]).shutWhenParked then
    (groupCars g).foldl (fun acc n => if acc.carIs n fun c => c.step = .parked && c.member.isNone then acc.shutCar n else acc) s
  else s

/-- A car PARKED and STILL with its fire flag set is released whatever the target, in RECALL and in SERVICE (R148). -/
def State.fireRelease (s : State) (n : CarName) : State :=
  if (s.phase = .recall || s.phase = .service) && s.carIs n (fun c => c.step = .parked && c.motion = .still && c.fire) then
    s.releaseCar n (if s.phase = .service then some .fireReleased else none)
  else s

/-- Whether the recall is in progress: phase RECALL, or PRE_TRANSFER with remembered phase RECALL. -/
def State.recalling (s : State) : Bool :=
  s.phase = .recall || (s.phase = .preTransfer && (match s.handshake with | some h => h.remembered = .recall | none => false))

/-- The end of a fire release when the fire flag clears: the member becomes ORDINARY if the set is short and it is a candidate, else it
leaves (R148); while the recall is in progress a car in step SERVICE is treated as a member leaving (R146). -/
def State.endFireRelease (s : State) (n : CarName) : State :=
  match s.car n with
  | some c =>
    if c.member = some .fireReleased then
      if s.counted (groupOf n) < s.target (groupOf n) && (s.candidatesOf (groupOf n)).contains n then
        s.modCar n fun x => { x with member := some .ordinary }
      else s.leaveSet n
    else if s.recalling && c.step = .service then s.leaveSet n
    else s
  | none => s

end Sys2Proof.Machine
end

