-- ==== Sys2Proof/Machine/Headroom.lean ====
section
/-! DEFINITION. The Headroom Monitor's checks and its shedding (chapter 4). -/

namespace Sys2Proof.Machine

/-! ### The checks (R61, R62), with the totals ML and RL handed in, so that R95 can ask them of its expected totals -/

/-- The committed check of a MOTOR candidate, the absorb check of a REGEN one (R61). -/
def State.committedCheck (s : State) (f : Figures) (ml rl : Nat) : Bool :=
  match f.kind with
  | .motor => s.bl + ml + f.demand ≤ s.usable
  | .regen => rl + f.demand ≤ s.absorbRoom

/-- The step check (R61). -/
def State.stepCheck (s : State) (f : Figures) : Bool := f.start ≤ s.stepMax

/-- The peak check (R61). -/
def State.peakCheck (s : State) (f : Figures) (ml : Nat) : Bool := s.bl + ml + f.start ≤ s.peak

/-- A candidate with figures passes when all three checks hold (R61). -/
def State.passes (s : State) (f : Figures) : Bool :=
  s.committedCheck f s.ml s.rl && s.stepCheck f && s.peakCheck f s.ml

/-- A candidate with figures is held by its checks: its step check passes, its committed or absorb check or its peak check fails
(R89). -/
def State.heldBack (s : State) (f : Figures) : Bool :=
  s.stepCheck f && !(s.committedCheck f s.ml s.rl && s.peakCheck f s.ml)

/-- The re-check of a permit at admission: S ≤ STEP_MAX and BL + ML − d + S ≤ peak limit (R62). -/
def State.recheck (s : State) (p : Permit) : Bool :=
  p.start ≤ s.stepMax && s.bl + s.ml + p.start ≤ s.peak + p.motorDemand

/-! ### Shedding (R65 to R68) -/

/-- One cancellation of the first step, if the permit's side is still expected over (R66). -/
def State.shedCancel (s : State) (x : CarName × Permit) : State :=
  if s.expectedOver x.2.kind then (((s.cancelWaiting x.1).refuse x.1 .cancelled).comeToRest x.1).refresh else s

/-- A car that the second step may shut: PARKED, in no service set, powered, with no shed credit (R67). -/
def Car.mayShed (c : Car) : Bool := c.step = .parked && c.member.isNone && c.powered && c.credit.isNone

/-- One SHUT of the second step, while the motoring side alone is expected over; its credit is the car's I (R67). A pass shuts and credits so
in a SETTLING takeover too, where R14 sends no order and BL may be held at 0 (assumption 58). -/
def State.shedShut (s : State) (n : CarName) : State :=
  if s.motorExpectedOver && !s.absorbExpectedOver && s.carIs n Car.mayShed then
    (s.shutCar n).modCar n fun c => { c with credit := some ⟨.motor, (s.table.cars[n]).i⟩ }
  else s

/-- One curtailment of the third step, if the run's side is still expected over; its credit is the permit's D or G (R68). -/
def State.shedCurtail (s : State) (x : CarName × Permit) : State :=
  if s.expectedOver x.2.kind && s.carIs x.1 (fun c => c.credit.isNone) then
    (s.curtailRun x.1 .clear).modCar x.1 fun c => { c with credit := some ⟨x.2.kind, x.2.demand⟩ }
  else s

/-- The first step: waiting SERVICE permits, youngest grant first (R66). -/
def State.shedQueued (s : State) : State := s.waitingService.foldl State.shedCancel s

/-- The second step: PARKED cars in ascending car name order (R67). -/
def State.shedParked (s : State) : State := s.forCars fun n acc => acc.shedShut n

/-- The third step: admitted SERVICE runs, youngest grant first (R68). -/
def State.shedRuns (s : State) : State := s.runningService.foldl State.shedCurtail s

/-- ALERT OVERCOMMIT, once in an episode, when the pass has done all it may and a side is still expected over (R68). One raised while the
panel link is DOWN counts as sent (assumption 60). -/
def State.shedAlert (s : State) : State :=
  if (s.motorExpectedOver || s.absorbExpectedOver) && s.episode ≠ .opened true then
    { s with episode := .opened true }.toPanel
      (.alert (.overcommit s.usable s.absorbRoom s.bl s.ml s.rl s.motorOver s.absorbOver))
  else s

/-- A shedding pass (R65). -/
def State.shed (s : State) : State := s.shedQueued.shedParked.shedRuns.shedAlert

/-- The episode mark opens, if it is closed (R64). -/
def State.openEpisode (s : State) : State :=
  match s.episode with
  | .closed => { s with episode := .opened false }
  | .opened _ => s

/-- The episode mark closes when both sides are within their limits (R64). -/
def State.closeIfWithin (s : State) : State := if s.overCommitted then s else { s with episode := .closed }

/-- The examination of over-commitment, made in a standby phase; what a pass cancels is judged in the same event (R64, assumption 5). -/
def State.examine (s : State) : State :=
  if !s.standby then s
  else if s.overCommitted then s.openEpisode.shed.closeIfWithin
  else { s with episode := .closed }

end Sys2Proof.Machine
end

