-- ==== Sys2Proof/Machine/Selector.lean ====
section
/-! DEFINITION. The Selector (chapter 6): candidates and ranking, pre-emption, the starvation guard, the choice and the grant. -/

namespace Sys2Proof.Machine

/-! ### Candidates and ranking (R89, R90) -/

/-- The candidates of a group: the entries of its list while its link is UP (R89). -/
def State.groupCandidates (s : State) (g : GroupNo) : List Entry :=
  if s.linkUp (.group g) then s.requests[g] else []

/-- A candidate is eligible when it has figures and they pass (R89). -/
def State.eligible (s : State) (e : Entry) : Bool :=
  match s.figures e with
  | some f => s.passes f
  | none => false

/-- A candidate is held by its checks; one without figures is not (R89). -/
def State.held (s : State) (e : Entry) : Bool :=
  match s.figures e with
  | some f => s.heldBack f
  | none => false

/-- The groups by budget, then HIGH, then recency of grant (R89). -/
def State.rankedGroups (s : State) : List GroupNo :=
  let high (g : GroupNo) : Bool := (s.table.groups[g]).high
  let within := s.groupOrder.filter fun g => !s.overBudget g
  let past := s.groupOrder.filter fun g => s.overBudget g
  within.filter high ++ within.filter (fun g => !high g) ++ past.filter high ++ past.filter (fun g => !high g)

/-- The candidates of one class in a group, as the class ranks them: list order, which is order of arrival, with trapped RECALL entries
first (R89). -/
def State.classCandidates (s : State) (cls : RunClass) (g : GroupNo) : List Entry :=
  let l := (s.groupCandidates g).filter fun e => e.cls = cls
  if cls = .recall then l.filter (fun e => e.trapped) ++ l.filter (fun e => !e.trapped) else l

/-- The class ranking (R89). -/
def State.ranking (s : State) (cls : RunClass) : List Entry := s.rankedGroups.flatMap (s.classCandidates cls)

/-- The FIRE candidates by arrival, then by their group's place in the group order list, then by list position (R90). -/
def State.fireRanking (s : State) : List Entry :=
  (s.groupOrder.flatMap (s.classCandidates .fire)).foldl (fun acc e => insertEntry e acc) []

/-! ### Pre-emption (R95 to R97) -/

/-- The demand of one kind that pending curtailments will free: D or G of every SERVICE permit whose car has a CURTAIL pending (R95). -/
def State.curtailed (s : State) (k : Kind) : Nat :=
  s.sumCars fun _ c =>
    match c.run, c.pending with
    | some r, some x => if x.kind = .curtail ∧ r.permit.cls = .service ∧ r.permit.kind = k then r.permit.demand else 0
    | _, _ => 0

/-- Expected ML of R95. -/
def State.mlExpected (s : State) : Nat := s.ml - s.curtailed .motor

/-- Expected RL of R95. -/
def State.rlExpected (s : State) : Nat := s.rl - s.curtailed .regen

/-- The candidate would pass: its committed or absorb check and its peak check hold with the expected totals (R95). -/
def State.wouldPass (s : State) (f : Figures) : Bool :=
  s.committedCheck f s.mlExpected s.rlExpected && s.peakCheck f s.mlExpected

/-- A permit of a kind helps a candidate: MOTOR one that fails its committed or peak check, REGEN one that fails its absorb check, by
the expected totals (R95). -/
def State.helps (s : State) (f : Figures) : Kind → Bool
  | .motor => (f.kind = .motor && !s.committedCheck f s.mlExpected s.rlExpected) || !s.peakCheck f s.mlExpected
  | .regen => f.kind = .regen && !s.committedCheck f s.mlExpected s.rlExpected

/-- The entry of a permit that pre-emption has cancelled returns to its list with the origin record's arrival time, FIRE or SERVICE by the
fire flag (R97). -/
def State.returnEntry (s : State) (x : CarName × Permit) : State :=
  if (s.waitingOf x.1).isSome then s else s.addEntry x.1 (s.requestClass x.1) x.2.destination x.2.origin

/-- The entries of the SERVICE permits that waited before the selection and wait no longer return at its end: they are candidates at the
next selection (R97, assumption 54). -/
def State.returnEntries (before s : State) : State := before.waitingService.foldl State.returnEntry s

/-- One cancellation of pre-emption, unless the candidate would already pass (R95). -/
def State.preemptQueued (f : Figures) (s : State) (x : CarName × Permit) : State :=
  if s.wouldPass f then s else if s.helps f x.2.kind then (s.cancelWaiting x.1).refresh else s

/-- One curtailment of pre-emption, unless the candidate would already pass (R95). -/
def State.preemptRunning (f : Figures) (s : State) (x : CarName × Permit) : State :=
  if s.wouldPass f then s else if s.helps f x.2.kind then s.curtailRun x.1 ⟨false, false, true⟩ else s

/-- Pre-emption in a mode for a candidate with figures (R95). -/
def State.preempt (s : State) (mode : PreemptMode) (f : Figures) : State :=
  match mode with
  | .off => s
  | .queued => s.waitingService.foldl (State.preemptQueued f) s
  | .running =>
    let s := s.waitingService.foldl (State.preemptQueued f) s
    s.runningService.foldl (State.preemptRunning f) s

/-- Pre-emption for an entry that is held by its checks (R95, R96). -/
def State.preemptFor (s : State) (mode : PreemptMode) (first : Option Entry) : State :=
  match first with
  | some e =>
    match s.figures e with
    | some f => if s.heldBack f then s.preempt mode f else s
    | none => s
  | none => s

/-- The mode of the fire cancellation (R96). -/
def State.fireMode (s : State) : PreemptMode :=
  if s.table.site.preemption = .running && (s.phase = .recall || s.window = .recallWindow) then .running else .queued

/-! ### The starvation guard (R94) -/

/-- A mark is kept at a selection while its entry is the first candidate of its class ranking and is held by its checks, or has become
eligible and may be granted now (R94). -/
def State.markStands (s : State) (n : CarName) : Bool :=
  match s.entryOf n with
  | some e => (s.ranking e.cls).head? = some e && (s.held e || s.eligible e)
  | none => false

/-- The mark is removed where it no longer stands (R94, assumption 33). -/
def State.reviewMark (s : State) : State :=
  match s.mark with
  | some n => if s.markStands n then s else { s with mark := none }
  | none => s

/-- The guard places its mark on the first candidate of the leading kind (R94). -/
def State.placeMark (s : State) (leading : RunClass) : State :=
  match s.mark, (s.ranking leading).head? with
  | none, some e =>
    if s.table.site.holdBack ≠ 0 && s.held e && s.table.site.holdBack * 10 < s.tenths - e.arrival then
      { s with mark := some e.car }
    else s
  | _, _ => s

/-- The last word on the mark before a grant: a marked entry that is not held by its checks loses it, granted or not (R94). -/
def State.settleMark (s : State) : State :=
  match s.mark with
  | some n =>
    match s.entryOf n with
    | some e => if s.held e then s else { s with mark := none }
    | none => { s with mark := none }
  | none => s

/-- The candidates of a class that no mark blocks: those not below the marked entry of that class (R94). -/
def State.unblocked (s : State) (cls : RunClass) : List Entry :=
  let l := s.ranking cls
  match s.mark with
  | some n => if l.any fun e => e.car = n then l.takeWhile (fun e => e.car ≠ n) ++ l.filter (fun e => e.car = n) else l
  | none => l

/-! ### The choice (R90 to R92) -/

/-- The preferred kind between RECALL and SERVICE (R91). -/
def State.preferred (s : State) : RunClass :=
  if s.phase = .service && s.window = .serviceWindow && !s.serviceOverBudget then .service else .recall

/-- The other of the two kinds. -/
def RunClass.other : RunClass → RunClass
  | .recall => .service
  | .service => .recall
  | .fire => .fire

/-- The leading kind: the preferred kind if it has any candidate (R91). -/
def State.leading (s : State) : RunClass :=
  if (s.ranking s.preferred).isEmpty then s.preferred.other else s.preferred

/-- The first eligible and unblocked candidate of a kind (R91, R92). -/
def State.pick (s : State) (cls : RunClass) : Option Entry := (s.unblocked cls).find? s.eligible

/-- The choice between the kinds, with the yield test on a SERVICE choice (R91, R92). -/
def State.choose (s : State) (leading : RunClass) : Option Entry :=
  match s.pick leading <|> s.pick leading.other with
  | some e =>
    if e.cls = .service && s.overBudget (groupOf e.car) && (s.table.groups[groupOf e.car]).yield then
      match s.pick .recall with
      | some r => some r
      | none => some e
    else some e
  | none => none

/-! ### The grant (R72, R76, R93, R101) -/

/-- What an account gains by a charge: U + RATIO, or U alone above CLIP, stopping at 65535 (R72). -/
def chargeGain (account clip ratio units : Nat) : Nat :=
  min 65535 (account + (if clip < account then units else units + ratio)) - account

/-- A group moves to the end of the group order list (R76). -/
def moveToEnd (g : GroupNo) (l : List GroupNo) : List GroupNo :=
  if l.contains g then l.filter (fun x => x ≠ g) ++ [g] else l

/-- The permit that a grant of an entry makes (R93). -/
def State.permitFor (s : State) (e : Entry) (f : Figures) : Permit :=
  let grp := s.table.groups[groupOf e.car]
  let site := s.table.site
  { cls := e.cls, kind := f.kind, demand := f.demand, start := f.start, units := f.units,
    groupCharge := chargeGain (s.accounts[groupOf e.car]) grp.clip grp.ratio f.units,
    serviceCharge := if e.cls = .service then chargeGain s.serviceAccount site.svcClip site.svcRatio f.units else 0,
    destination := e.destination, floors := f.floors, grantTime := s.tenths, origin := e.arrival, serial := s.grants }

/-- Deferral of the head once the new permit is at the tail (R101). -/
def State.defer (s : State) (cls : RunClass) : State :=
  match s.queue, s.slot with
  | w :: rest, none =>
    if s.table.site.deferral && cls ≠ .service && w.permit.cls = .service &&
        (s.phase = .recall || (s.phase = .service && s.window = .recallWindow)) then
      { s with queue := rest, slot := some w }
    else s
  | _, _ => s

/-- The grant of an entry with its figures (R93). -/
def State.grantWith (s : State) (e : Entry) (f : Figures) : State :=
  let p := s.permitFor e f
  let s := { s.removeEntry e.car with
    accounts := s.accounts.set (groupOf e.car) (s.accounts[groupOf e.car] + p.groupCharge),
    serviceAccount := s.serviceAccount + p.serviceCharge,
    groupOrder := moveToEnd (groupOf e.car) s.groupOrder,
    queue := s.queue ++ [({ car := e.car, permit := p } : Waiting)],
    grants := s.grants + 1 }
  (s.setMotion e.car .granted).defer e.cls

/-- The grant of an entry (R93). -/
def State.grantEntry (s : State) (e : Entry) : State :=
  match s.figures e with
  | some f => s.grantWith e f
  | none => s

/-- A selection is made while all of these hold (R88). -/
def State.selecting (s : State) : Bool :=
  (s.phase = .recall || s.phase = .service) && s.pacer.cycling && decide (s.queue.length < 4) && s.episode = .closed

/-- The part of a selection that looks at RECALL and SERVICE (R91, R92, R94, R95). -/
def State.selectOrdinary (s : State) : State :=
  let leading := s.leading
  let s := if s.window = .recallWindow then s.preemptFor s.table.site.preemption (s.ranking .recall).head? else s
  let s := s.reviewMark.placeMark leading
  match s.choose leading with
  | some e => s.settleMark.grantEntry e
  | none => s.settleMark

/-- What a selection decides once the fire cancellation has been made: a FIRE candidate, at which the mark is reviewed too, else RECALL
and SERVICE (R90, R94). -/
def State.judge (s : State) : State :=
  match s.fireRanking.find? s.eligible with
  | some e => s.reviewMark.settleMark.grantEntry e
  | none => s.selectOrdinary

/-- One selection: it grants one permit or none (R88, R90). -/
def State.select (s : State) : State :=
  if s.selecting then s.returnEntries (s.preemptFor s.fireMode s.fireRanking.head?).judge else s

/-- The deferred permit returns to the head of the queue once the queue has room and holds no RECALL or FIRE permit (R102). -/
def State.returnDeferred (s : State) : State :=
  match s.slot with
  | some w =>
    if decide (s.queue.length < 4) && s.queue.all fun x => x.permit.cls = .service then
      { s with queue := w :: s.queue, slot := none }
    else s
  | none => s

end Sys2Proof.Machine
end

