-- ==== Sys2Proof/Machine/EndOfEvent.lean ====
section
/-! DEFINITION. What every event ends with: the evaluation of the CLEAR condition (R152), the deferred permit's return (R102), the
examination of over-commitment (R64), the end of recall (R146), the fill of the service sets (R148, R150), the CAR summaries and LOAD of what
the event changed (R39, R63), and the decisions that it makes due (R88, R108). Each part compares the state with the one the event began
from, s0. The order is assumption 6. -/

namespace Sys2Proof.Machine

/-! ### The CLEAR condition, evaluated within the event (R152, R154) -/

/-- CLEAR with the forced flag clear, where the condition holds, none has been sent in this stay and the power link is UP (R152). -/
def State.tryClear (s : State) : State :=
  match s.handshake with
  | some h =>
    if s.phase = .preTransfer && !h.clearSent && s.clearCondition h.kind && s.linkUp .power then
      { s with handshake := some { h with clearSent := true }, preTimer := none }.toPower (.clear false h.kind 0)
    else s
  | none => s

/-- What of a car the CLEAR condition reads: whether it holds an admitted permit, its moving flag, its reservation (R152). -/
def Car.clearView (c : Car) : Bool × Bool × Bool := (c.run.isSome, c.moving, c.unpermitted)

/-- Whether the event has changed anything that the CLEAR condition reads: the entry to PRE_TRANSFER, a replaced kind, the filtered strain or
the trip state, a run, a moving flag or a reservation (R151, R152, R154). An event of R152 that changes none of these, such as a STATUS
which repeats the last one, finds what the last evaluation found (assumption 62). The return of the power link evaluates by itself. -/
def State.clearMoved (s0 s : State) : Bool :=
  s0.phase ≠ .preTransfer || s.handshake.map Handshake.kind ≠ s0.handshake.map Handshake.kind ||
  s.filtered ≠ s0.filtered || s.trip ≠ s0.trip ||
  carNames.any fun n => (s.car n).map Car.clearView ≠ (s0.car n).map Car.clearView

/-- The evaluation that the event calls for: within the event, so that nothing comes between it and what makes the condition hold, and before
the event's summaries and LOAD (R151, R152, R154, assumption 62). -/
def State.clearAfter (s0 s : State) : State := if s0.clearMoved s then s.tryClear else s

/-! ### Queue, over-commitment, recall, fills -/

/-- The deferred permit's return, tested when the queue's contents have changed. It stands inside the event of the departure, and so before
the selections that follow, though R102 leaves the order open (R102, assumption 48). -/
def State.settleQueue (s0 s : State) : State := if s.queue = s0.queue then s else s.returnDeferred

/-- Whether E, A, BL, ML, RL, the peak limit or STEP_MAX differ: what is passed to the examination (R56, R64, R112). -/
def State.limitsMoved (s0 s : State) : Bool :=
  !(s.usable = s0.usable && s.absorbRoom = s0.absorbRoom && s.bl = s0.bl && s.ml = s0.ml && s.rl = s0.rl && s.peak = s0.peak &&
    s.stepMax = s0.stepMax)

/-- Whether a staged profile has become active (R112). -/
def State.activated (s0 s : State) : Bool := s0.staged.isSome && s.staged.isNone

/-- The examination of R64, once for the changes of the event (assumption 5), and at every activation of a profile (R112). -/
def State.examineChange (s0 s : State) : State := if s0.limitsMoved s || s0.activated s then s.examine.refresh else s

/-- What of a car the end of recall reads: its step, and whether it is OUT (R146). -/
def State.recallView (s : State) (n : CarName) : Option (RecoveryStep × Bool) := (s.car n).map fun c => (c.step, c.motion.isOut)

/-- The change to SERVICE: the window alternation starts with RECALL_WINDOW, and the PHASE notice carries it (R19, R77). -/
def State.enterService (s : State) : State :=
  { s with
    phase := .service, window := .recallWindow, windowTimer := some (s.inSeconds s.table.site.recallLength) }.phaseNotice

/-- The end of recall, examined at entry to RECALL and at each change of a step, of OUT or of the configured cars (R146). -/
def State.endRecall (s0 s : State) : State :=
  if s.phase = .recall && (s0.phase ≠ .recall || carNames.any fun n => s.recallView n ≠ s0.recallView n) && s.recallComplete then
    s.enterService
  else s

/-- A car that makes a fill due: it has become PARKED or SHUT, or has left its service set (R148). -/
def State.freesPlace (s0 s : State) (n : CarName) : Bool :=
  match s0.car n, s.car n with
  | some c0, some c =>
    ((c.step = .parked || c.step = .shut) && c.step ≠ c0.step) || (c0.member.isSome && c.member.isNone)
  | _, _ => false

/-- Whether a fill of a group is due (R148): entry to SERVICE, a SELECT, a change of BL, ML or E, the end of an episode, or one of the
group's cars. -/
def State.fillDue (s0 s : State) (ended : Bool) (asked : Option GroupNo) (g : GroupNo) : Bool :=
  s0.phase ≠ .service || asked = some g || s.bl ≠ s0.bl || s.ml ≠ s0.ml || s.usable ≠ s0.usable || ended ||
  (groupCars g).any (s0.freesPlace s)

/-- The fill of a group with its release for fire, then shut-when-parked, then the fill that a car becoming SHUT makes due (R148,
R150; the releases for fire in ascending car number, assumption 56). -/
def State.serveGroup (s : State) (g : GroupNo) : State :=
  let s := (groupCars g).foldl (fun acc n => acc.fireRelease n) (s.fillSet g)
  (s.shutParked g).fillSet g

/-- The fills that the event makes due, group by group (R148). -/
def State.serveGroups (s0 : State) (ended : Bool) (asked : Option GroupNo) (s : State) : State :=
  if s.phase = .service then
    groupNos.foldl (fun acc g => if s0.fillDue s ended asked g then acc.serveGroup g else acc) s
  else s

/-- Release for fire of the cars whose record the event changed, and of every car where the phase changed (R148; in ascending car name
order, assumption 56). -/
def State.releaseFires (s0 s : State) : State :=
  s.forCars fun n acc => if acc.car n = s0.car n && acc.phase = s0.phase then acc else acc.fireRelease n

/-- The CAR summaries of the cars whose summarised fields differ, one each, in ascending car name order (R39). A panel frame that brings the
panel link UP has sent one summary of every car before its message was taken; a car that the message itself changes has a second one here
(assumption 59). -/
def State.announceCars (s0 s : State) : State :=
  s.forCars fun n acc =>
    match s.car n with
    | some c => if (s0.car n).map (s0.summary n) = some (s.summary n c) then acc else acc.toPanel (.car (s.summary n c))
    | none => acc

/-- LOAD, when E, BL, ML or RL differ from what they were as the event began, or the event sends it in any case (R63, assumptions 7
and 59). -/
def State.announceLoad (s0 : State) (always : Bool) (s : State) : State :=
  if !always && s.usable = s0.usable && s.bl = s0.bl && s.ml = s0.ml && s.rl = s0.rl then s else s.sendLoad

/-- The state that the examination of R64 reads: the deferred permit has returned, and the figures are formed anew. -/
def State.examined (s0 s : State) : State := (s0.settleQueue s).refresh

/-- The settlement of an event: queue, totals, over-commitment. -/
def State.settle (s0 s : State) : State :=
  let s := s0.examineChange (s0.examined s)
  s0.settleQueue s

/-- Whether an episode has ended in the event: one that was open as it began, or one that its examination has opened and its shedding has
ended (R64, R148). -/
def State.episodeEnds (s0 s : State) : Bool :=
  let x := s0.examined s
  (s0.settle s).episode = .closed &&
    (s0.episode ≠ .closed || ((s0.limitsMoved x || s0.activated x) && x.standby && x.overCommitted))

/-- The plans that an event sets going: end of recall, fills, releases for fire. -/
def State.follow (s0 : State) (ended : Bool) (asked : Option GroupNo) (s : State) : State :=
  s0.releaseFires (s0.serveGroups ended asked (s0.endRecall s))

/-! ### The selections that an event makes due (R88) -/

/-- Whether a car's record differs in what the Car Table passes to the Selector: position, between-floors, door, occupied and fire flag
(R24), and the load (R88). -/
def State.recordMoved (s0 s : State) (n : CarName) : Bool :=
  match s0.car n, s.car n with
  | some c0, some c =>
    c.position ≠ c0.position || c.between ≠ c0.between || c.door ≠ c0.door || c.occupied ≠ c0.occupied || c.fire ≠ c0.fire ||
      c.load ≠ c0.load
  | none, some _ => true
  | _, none => false

/-- Whether the event has changed what can change a selection's outcome: an entry; a permit that has left the start queue; a figure or the
profile; the end of an over-commitment episode; a change of the pacer's state; an account or the window; a group link; a car's record
(R88). The return of a group link and an account tick, which may leave all of this as it was, say so themselves (State.askSelection). -/
def State.outcomeMoved (s0 s : State) : Bool :=
  s.requests ≠ s0.requests || s0.waiting.any (fun w => !s.waiting.contains w) || s0.limitsMoved s || s0.activated s ||
  (s0.episode ≠ .closed && s.episode = .closed) || s.pacer ≠ s0.pacer || s.accounts ≠ s0.accounts ||
  s.serviceAccount ≠ s0.serviceAccount || s.window ≠ s0.window || s.groupLinks.map Link.up ≠ s0.groupLinks.map Link.up ||
  carNames.any (s0.recordMoved s)

/-- A selection becomes due, or stays so, where the event calls for one and R88 has the Selector make one (R88, assumption 2). -/
def State.queueSelection (s0 s : State) : State := { s with selectionDue := s.selecting && (s.selectionDue || s0.outcomeMoved s) }

/-! ### The admission attempt that an event makes due (R108) -/

/-- Whether the pacer attempts admission: an OPEN state whose admitted mark is clear (R108). -/
def State.opening (s : State) : Bool := (s.pacer = .openA || s.pacer = .openB) && !s.admitted

/-- Whether the event is one at which R108 has the pacer attempt admission: an entry to the OPEN state, a permit that has joined the queue, a
change of BL, ML, RL, E, STEP_MAX or the peak limit. An entry to OPEN_A from OPEN_A itself, through a SETTLE_A of 0.0 s, shows by the permit
that has left the queue (R106, R107, R108). -/
def State.startsMoved (s0 s : State) : Bool :=
  s.pacer ≠ s0.pacer || s.queue ≠ s0.queue || s.bl ≠ s0.bl || s.ml ≠ s0.ml || s.rl ≠ s0.rl || s.usable ≠ s0.usable ||
  s.stepMax ≠ s0.stepMax || s.peak ≠ s0.peak

/-- An admission attempt becomes due, or stays so, where the event calls for one and the pacer attempts admission (R108, assumption 2). -/
def State.queueAdmission (s0 s : State) : State := { s with admissionDue := s.opening && (s.admissionDue || s0.startsMoved s) }

/-- The end of an event that began in s0. -/
def State.endEvent (s0 : State) (s : State) (load : Bool := false) (asked : Option GroupNo := none) : State :=
  let s := s0.clearAfter s
  let s := (s0.follow (s0.episodeEnds s) asked (s0.settle s)).refresh
  s0.queueAdmission (s0.queueSelection (s0.announceLoad load (s0.announceCars s)))

end Sys2Proof.Machine
end

