-- ==== Sys2Proof/Machine/Phases.lean ====
section
/-! DEFINITION. The Phase Controller's entries (chapters 1 and 11): NORMAL with its hand-back, OUTAGE, TAKEOVER, PRE_TRANSFER, and the
returns from PRE_TRANSFER. At each change of phase the PHASE notice goes out first, then what the entry does (assumption 4). -/

namespace Sys2Proof.Machine

/-! ### Contexts and hand-back (R7, R9, R157) -/

/-- Each car with a capture image receives it as its saved context (R7). -/
def State.capture (s : State) : State := s.forCars fun n acc => acc.modCar n fun c => { c with saved := c.image }

/-- A car's record after its hand-back (R9, R10, R136). -/
def Car.handBack (c : Car) : Car :=
  { c with
    image := none, saved := none, order := some .release, step := .normal, attempts := 0, pending := none, dwell := none,
    noLanding := false, member := none, unpermitted := false, credit := none, run := none, planDue := false,
    motion := match c.motion with
      | .requested | .granted | .starting | .running | .stopping => c.restMotion
      | .still => .still
      | .stranded => .stranded
      | .out r => .out r }

/-- The hand-back of one group: PHASE, then RESTORE of each saved context, then RELEASE to each configured car (R157). -/
def State.handBackGroup (s : State) (g : GroupNo) : State :=
  let s := s.toGroup g (.phase .normal .noWindow)
  let s := (groupCars g).foldl (fun acc n =>
    match (s.car n).bind Car.saved with
    | some x => acc.toGroup g (.restore (numberOf n) x)
    | none => acc) s
  (groupCars g).foldl (fun acc n =>
    if s.configured n then acc.toGroup g (.order (numberOf n) .release 0) else acc) s

/-- The configured groups in ascending group number (R76). -/
def State.groupsAscending (s : State) : List GroupNo := groupNos.filter fun g => s.groupConfigured g

/-- Sends a CAR summary of every configured car, in ascending car name order (R39, R157). -/
def State.sendCars (s : State) : State :=
  s.forCars fun n acc =>
    match s.car n with
    | some c => acc.toPanel (.car (s.summary n c))
    | none => acc

/-- The standby machinery after entry to NORMAL (R10). -/
def State.clearStandby (s : State) : State :=
  { s with
    phase := .normal, handshake := none, preTimer := none, takeover := none,
    requests := Vector.replicate 6 [], mark := none, queue := [], slot := none,
    accounts := Vector.replicate 6 0, serviceAccount := 0, groupOrder := s.groupsAscending,
    window := .noWindow, windowTimer := none, tickTimer := none, blHeld := true, episode := .closed }

/-- Entry to NORMAL from another phase (R9, R10, R157). -/
def State.enterNormal (s : State) : State :=
  let s := s.clearStandby.haltPacer
  let s := groupNos.foldl (fun acc g => acc.handBackGroup g) s
  let s := s.forCars fun n acc => acc.modCar n Car.handBack
  ((s.toPanel (.phase .normal .noWindow)).refresh.sendCars).sendLoad

/-! ### The clearing of OUTAGE entry and of takeover (R11, R14) -/

/-- A live run is abandoned: STOP_NOW, the permit discarded without refund, motion STRANDED; the step stays (R11). -/
def State.clearRun (s : State) (n : CarName) : State :=
  match s.runOf n with
  | some _ => (s.modCar n fun c => { c with run := none, motion := .stranded }).stopNow n
  | none => s

/-- A queued or deferred permit is cancelled with refund, and its car comes to rest (R11). -/
def State.clearWaiting (s : State) (w : Waiting) : State := (s.cancelWaiting w.car).comeToRest w.car

/-- What the clearing takes from a car's record (R11, R38, R65, R136): REQUESTED motion, pending record, reservation, credit, dwell,
membership. The standing order keeps the dwell's remaining time (R34). -/
def Car.cleared (now : Nat) (c : Car) : Car :=
  { c with
    motion := if c.motion = .requested then c.restMotion else c.motion,
    order := c.orderNow now, dwell := none, pending := none, unpermitted := false, credit := none, member := none,
    planDue := false }

/-- The clearing: runs, waiting permits, request lists, reservations, dwell timers, service sets (R11, R14, R136). The STOP_NOWs of the
abandoned runs go out in ascending car name order (assumption 56). -/
def State.clearRuns (s : State) : State :=
  let s := s.forCars fun n acc => acc.clearRun n
  let s := s.waiting.foldl State.clearWaiting s
  let s := { s with requests := Vector.replicate 6 [], mark := none }
  s.forCars fun n acc => acc.modCar n (Car.cleared s.now)

/-- Entry to OUTAGE (R11). -/
def State.enterOutage (s : State) : State :=
  let s := { s with
    phase := .outage, handshake := none, preTimer := none, takeover := none, window := .noWindow, windowTimer := none,
    tickTimer := none, blHeld := true, episode := .closed }
  s.phaseNotice.clearRuns.haltPacer

/-! ### Takeover (R14, R71) -/

/-- The tick timer starts where it is idle, and runs on where it runs (R71). -/
def State.startTicks (s : State) : State :=
  match s.tickTimer with
  | none => { s with tickTimer := some (s.now + Config.tickPeriod) }
  | some _ => s

/-- The takeover stage becomes SETTLING, with its timer at the standby settle time (R14). -/
def State.startSettling (s : State) : State := { s with takeover := some ⟨.settling, s.inTenths s.table.site.settleTime⟩ }

/-- The change of phase to TAKEOVER, with its PHASE notice; BL is set to 0 with the other totals, and held there until step 4 (R4, R11,
R14, R16, assumption 8). -/
def State.openTakeover (s : State) : State :=
  { s with
    phase := .takeover, handshake := none, preTimer := none, takeover := none, window := .noWindow,
    windowTimer := none, blHeld := true }.phaseNotice

/-- Entry to TAKEOVER: clearing, then settling (R14), then a filtered strain still asserted (R116). -/
def State.enterTakeover (s : State) : State := s.openTakeover.clearRuns.haltPacer.startSettling.startTicks.strainAtEntry

/-! ### PRE_TRANSFER (R18, R151) -/

/-- The disposal of a waiting permit that is cancelled while a RECALL permit's entry is made anew with the origin record's arrival time:
at a TRIP (R120), at entry to PRE_TRANSFER (R151). -/
def State.cancelAndRenew (s : State) (w : Waiting) : State :=
  let s := (s.cancelWaiting w.car).comeToRest w.car
  if w.permit.cls = .recall then s.recallEntry w.car w.permit.origin else s.refuse w.car .cancelled

/-- Every admitted run in STARTED-WAIT or RUNNING receives CURTAIL with no follow-up flag (R151). -/
def State.curtailAll (s : State) : State :=
  s.forCars fun n acc =>
    match acc.runOf n with
    | some r => if r.state.inFlight then acc.curtailRun n .clear else acc
    | none => acc

/-- The change of phase to PRE_TRANSFER: handshake state and pre-transfer timer, PHASE notice, pacer HALTED, ticks (R18, R71, R104,
R151). -/
def State.openHandshake (s : State) (rem : Remembered) (kind : TransKind) : State :=
  { s with
    phase := .preTransfer, handshake := some ⟨rem, false, kind, false⟩,
    preTimer := some (s.inTenths s.table.site.preTransferTime), takeover := none, window := .noWindow,
    windowTimer := none }.phaseNotice.haltPacer.startTicks

/-- What an entry from RECALL or SERVICE does to permits: those that wait are cancelled, queue from head to tail, then the slot; runs are
curtailed in ascending car name order (R18, R151, assumption 56). -/
def State.standDown (s : State) : State := (s.waiting.foldl State.cancelAndRenew s).curtailAll

/-- Entry to PRE_TRANSFER with the phase to remember and the transition kind (R18, R151): what R151 stops first, then what a filtered
strain still asserted does (R116, assumption 57). The contexts of a departure from NORMAL have been captured before. -/
def State.enterPreTransfer (s : State) (rem : Remembered) (kind : TransKind) : State :=
  let s := s.openHandshake rem kind
  (if rem = .recall ∨ rem = .service then s.standDown else s).strainAtEntry

/-- CLEAR with the forced flag set and the count of cars in motion (R153). -/
def State.forceClear (s : State) (h : Handshake) : State :=
  { s with handshake := some { h with clearSent := true } }.toPower (.clear true h.kind s.movingCount)

/-- The clearance that awaits the power link's return: unforced if the condition holds, else forced if the timer has expired (R153). -/
def State.awaitedClear (s : State) : State :=
  let s := s.tryClear
  match s.handshake with
  | some h => if s.phase = .preTransfer && h.expired && !h.clearSent then s.forceClear h else s
  | none => s

/-- One car on a return to RECALL or SERVICE: freed from its place if it was parked in place and now has a recall landing, else planned
if it awaits that, as an AWAITING car does (R139, R144, R155). -/
def State.planReturning (s : State) (n : CarName) : State :=
  match s.car n with
  | some c =>
    let s := s.modCar n fun x => { x with planDue := false }
    if s.mayLeavePlace n c then s.replanInPlace n else if c.planDue || c.step = .awaiting then s.plan n else s
  | none => s

/-- The return to a remembered RECALL or SERVICE after a transfer abort; the cars are planned in ascending car name order (R155,
assumption 56). -/
def State.returnToStandby (s : State) (phase : Phase) : State :=
  let s := { s with phase := phase, handshake := none, preTimer := none }
  let s := if phase = .service then s.enterService else s.phaseNotice
  s.leaveHalted.forCars fun n acc => acc.planReturning n

/-- A SOURCE TRANSFER_ABORT in PRE_TRANSFER (R155). -/
def State.abortTransfer (s : State) (rem : Remembered) : State :=
  match rem with
  | .normal => s.enterNormal
  | .takeover => s.enterTakeover
  | .recall => s.returnToStandby .recall
  | .service => s.returnToStandby .service

/-! ### SOURCE (R2, R5, R8, R12, R17, R18, R20, R155, R156) -/

/-- CLEAR at once, with the forced flag clear and the kind it answers (R5, R12, R161). -/
def State.clearAtOnce (s : State) (kind : TransKind) : State := s.toPower (.clear false kind 0)

/-- SOURCE in STARTUP (R5) and in OUTAGE (R12): the same outcomes, but that LOST has no effect in OUTAGE. -/
def State.sourceAtRest (s : State) (state : SourceState) (kind : TransKind) : State :=
  match state with
  | .normal => s.enterNormal
  | .lost => if s.phase = .outage then s else s.enterOutage
  | .standby => s.enterTakeover
  | .preTransfer => s.clearAtOnce kind
  | .transferAbort => s

/-- SOURCE in NORMAL (R8): each departure captures the contexts first (R7). -/
def State.sourceInNormal (s : State) (state : SourceState) (kind : TransKind) : State :=
  match state with
  | .lost => s.capture.enterOutage
  | .standby => s.capture.enterTakeover
  | .preTransfer => s.capture.enterPreTransfer .normal kind
  | .normal | .transferAbort => s

/-- SOURCE in TAKEOVER, RECALL and SERVICE (R17, R18, R20). -/
def State.sourceInStandby (s : State) (rem : Remembered) (state : SourceState) (kind : TransKind) : State :=
  match state with
  | .normal => s.enterNormal
  | .lost => s.enterOutage
  | .preTransfer => s.enterPreTransfer rem kind
  | .standby | .transferAbort => s

/-- SOURCE in PRE_TRANSFER (R20, R151, R155, R156). -/
def State.sourceInPreTransfer (s : State) (h : Handshake) (state : SourceState) (kind : TransKind) : State :=
  match state with
  | .normal => s.enterNormal
  | .lost => s.enterOutage
  | .standby => if h.clearSent ∨ h.remembered = .normal then s.enterTakeover else s
  | .preTransfer => if h.clearSent then s else { s with handshake := some { h with kind := kind } }
  | .transferAbort => s.abortTransfer h.remembered

/-- An accepted SOURCE, by the phase in which it is taken (section 1.1). -/
def State.takeSource (s : State) (state : SourceState) (kind : TransKind) : State :=
  match s.phase with
  | .startup | .outage => s.sourceAtRest state kind
  | .normal => s.sourceInNormal state kind
  | .takeover => s.sourceInStandby .takeover state kind
  | .recall => s.sourceInStandby .recall state kind
  | .service => s.sourceInStandby .service state kind
  | .preTransfer =>
    match s.handshake with
    | some h => s.sourceInPreTransfer h state kind
    | none => s

/-- Whether a taken SOURCE is an entry to PRE_TRANSFER from RECALL or SERVICE, which sends one LOAD (R151). -/
def State.sourceSendsLoad (s : State) (state : SourceState) : Bool :=
  state = .preTransfer && (s.phase = .recall || s.phase = .service)

/-- The state from which the announcements of a SOURCE are reckoned: an entry to NORMAL has made its own (R157). -/
def State.sourceBase (s0 s : State) : State := if s.phase = .normal && s0.phase ≠ .normal then s else s0

end Sys2Proof.Machine
end

