-- ==== Sys2Proof/Machine/Links.lean ====
section
/-! DEFINITION. The Link Interfaces (R159): a good frame, the return of a link and what follows it, the loss of a link and what follows it
(R35, R39, R57, R121, R135, R165). -/

namespace Sys2Proof.Machine

/-- Silence time of a link: 5.0 s for the power link, 3.0 s for the others (R159). -/
def silenceTime : LinkId → Nat
  | .power => 5 * Config.second
  | .group _ | .panel => 3 * Config.second

/-- The link record of a link (R159). -/
def State.link (s : State) : LinkId → Link
  | .group g => s.groupLinks[g]
  | .power => s.powerLink
  | .panel => s.panelLink

/-- Writes the link record of a link. -/
def State.setLink (s : State) (l : LinkId) (x : Link) : State :=
  match l with
  | .group g => { s with groupLinks := s.groupLinks.set g x }
  | .power => { s with powerLink := x }
  | .panel => { s with panelLink := x }

/-- The standing orders of a group's cars, re-sent in ascending car number with the remaining time of the moment (R35). -/
def State.resendOrders (s : State) (g : GroupNo) : State :=
  (groupCars g).foldl (fun acc n =>
    match (s.car n).bind fun c => c.orderNow s.now with
    | some o => acc.toGroup g (o.message (numberOf n))
    | none => acc) s

/-- Whether a takeover collection is running (R15). -/
def State.collecting (s : State) : Bool :=
  match s.takeover with
  | some t => t.stage = .collecting
  | none => false

/-- What follows a link's return (R159), before the frame's own message is taken: the LOAD of the power link and the CAR summaries of the
panel link show the state as it stands then (R39, R63, assumption 59). -/
def State.linkReturned (s : State) : LinkId → State
  | .group g =>
    let s := (s.askSelection.toGroup g (.phase s.phase s.window)).resendOrders g
    if s.collecting then s.toGroup g .query else s
  | .power => s.sendLoad.awaitedClear
  | .panel =>
    let s := (s.toPanel (.phase s.phase s.window)).sendCars
    let s := if s.trip then s.toPanel (.alert (.trip 0 0 s.pacer)) else s
    let s := if s.pacer = .waitRestart then s.alertWaitRestart 0#8 else s
    match s.fallback with
    | some why => s.toPanel (.alert (.configFallback why))
    | none => s

/-- A good frame: a DOWN link becomes UP and its return is handed on; the silence timer starts with the full silence time (R159). -/
def State.goodFrame (s : State) (l : LinkId) : State :=
  let up := s.linkUp l
  let s := s.setLink l { up := true, silence := some (s.now + silenceTime l) }
  if up then s else s.linkReturned l

/-! ### The loss of a link -/

/-- A lost group's SERVICE and FIRE entries are removed without REFUSE, and their cars come to rest (R40, R87). -/
def State.dropLostEntry (s : State) (n : CarName) : State :=
  match s.entryOf n with
  | some e => if e.cls = .recall then s else (s.removeEntry n).comeToRest n
  | none => s

/-- A lost group's waiting permit is cancelled with refund and no REFUSE; a RECALL permit's entry is made anew with its origin's arrival
time (R135). -/
def State.dropLostWaiting (s : State) (w : Waiting) : State :=
  let s := (s.cancelWaiting w.car).comeToRest w.car
  if w.permit.cls = .recall then s.recallEntry w.car w.permit.origin else s

/-- A lost group's admitted run enters GRACE with cause LINK, the GRACE timer at 10.0 s; a run already in GRACE keeps its own (R135). -/
def State.graceLost (s : State) (n : CarName) : State :=
  s.modCar n fun c =>
    match c.run with
    | some r => if r.state.inFlight then { c with run := some { r with state := .grace .linkLost (s.inSeconds 10) } } else c
    | none => c

/-- The waiting permits of a group (R135). -/
def State.waitingOfGroup (s : State) (g : GroupNo) : List Waiting := s.waiting.filter fun w => groupOf w.car = g

/-- How many admitted runs of a group are in STARTED-WAIT or RUNNING (R135). -/
def State.inFlightOf (s : State) (g : GroupNo) : Nat :=
  ((groupCars g).filter fun n => match s.runOf n with | some r => r.state.inFlight | none => false).length

/-- The starvation-guard mark goes where it stands on an entry of the group (R94). -/
def State.dropMark (s : State) (g : GroupNo) : State :=
  match s.mark with
  | some n => if groupOf n = g then { s with mark := none } else s
  | none => s

/-- What follows the loss of a group link (R40, R87, R94, R135); its permits go queue from head to tail, then the slot (assumption 56). -/
def State.groupLost (s : State) (g : GroupNo) : State :=
  let lost := s.waitingOfGroup g
  let graced := s.inFlightOf g
  let s := ((groupCars g).foldl (fun acc n => acc.dropLostEntry n) s).dropMark g
  let s := (groupCars g).foldl (fun acc n => acc.graceLost n) (lost.foldl State.dropLostWaiting s)
  if s.phase = .recall ∨ s.phase = .service ∨ s.phase = .takeover ∨ s.phase = .preTransfer then
    s.toPanel (.alert (.linkLost g graced lost.length))
  else s

/-- What follows the loss of a link (R57, R135, R159). -/
def State.linkLost (s : State) : LinkId → State
  | .group g => s.groupLost g
  | .power =>
    if s.standby then
      { s with offered := min s.offered s.table.site.eFallback, absorb := 0, clamp := true }
    else s
  | .panel => s

/-- The link of a silence timer that has run out becomes DOWN, and its loss is handed on (R159). -/
def State.silenceRunsOut (s : State) (l : LinkId) : State := (s.setLink l Link.reset).linkLost l

end Sys2Proof.Machine
end

