-- ==== Sys2Proof/Machine/Runs.lean ====
section
/-! DEFINITION. The Run Supervisor's shared operations (chapter 9): position at a run's end, follow-ups, reports at rest, unpermitted
motion, and the ends of runs by timer. -/

namespace Sys2Proof.Machine

/-- Where ARRIVED or HALTED leaves a car: at a landing and not between floors, or at position UNKNOWN with between-floors as last
reported (R24). -/
def State.writePlace (s : State) (n : CarName) (landing : Option Landing) : State :=
  s.modCar n fun c =>
    match landing with
    | some l => { c with position := some l, between := false }
    | none => { c with position := none }

/-! ### Follow-ups (R97, R133) -/

/-- PARK_AFTER and RECLAIM_AFTER for a car still in step SERVICE: parked where it rests at a landing, as a member that leaves its set is
(a permit granted since an ABANDON is cancelled first; a run admitted since receives COMPLETE with the flags), reclaimed where it is
stranded (R133, R149). -/
def State.parkOrReclaim (s : State) (n : CarName) (flags : FollowUps) : State :=
  match s.car n with
  | some c =>
    if c.step = .service then
      if c.run.isSome then
        (if flags.parkAfter || flags.reclaimAfter then s.completeRun n ⟨flags.parkAfter, flags.reclaimAfter, false⟩ else s)
      else if c.rests then
        (if flags.parkAfter then
          ((if (s.waitingOf n).isSome then s.cancelGranted n else s).modCar n fun x => { x with member := none }).park n
         else s)
      else if flags.reclaimAfter then s.reclaim n else s
    else s
  | none => s

/-- REREQUEST_AFTER of a SERVICE or FIRE run (R97): the request is made again with the origin record's arrival time, or refused; a car
that arrived at its destination after all receives no REFUSE. The origin is absent after an ABANDON, which removes the record (R131). -/
def State.rerequest (s : State) (n : CarName) (destination : Option Landing) (origin : Option Nat) : State :=
  match s.car n with
  | some c =>
    if c.motion = .still && c.position = destination then s
    else
      match origin with
      | some arrival =>
        if (s.phase = .recall || s.phase = .service) && c.owner = .group && s.linkUp (.group (groupOf n)) && c.motion = .still then
          s.addEntry n (s.requestClass n) destination arrival
        else s.refuse n .cancelled
      | none => s.refuse n .cancelled
  | none => s

/-- A pending action record is removed and its follow-ups applied in their order (R133). It is taken off first, so that what a follow-up
orders of a run admitted since stands in a record of its own. A RECALL run's REREQUEST_AFTER is met by the arrival effect or the failure
transition (R141). -/
def State.applyFollowUps (s : State) (n : CarName) (x : PendingAction) (origin : Option Nat) : State :=
  let s := (s.modCar n fun c => { c with pending := none }).parkOrReclaim n x.flags
  if x.flags.rerequestAfter && x.cls ≠ .recall then s.rerequest n x.destination origin else s

/-- The follow-ups at the end of a run, for a record of kind COMPLETE or CURTAIL (R126, R127). -/
def State.endFollowUps (s : State) (n : CarName) (origin : Nat) : State :=
  match (s.car n).bind Car.pending with
  | some x => if x.kind = .abandon then s else s.applyFollowUps n x (some origin)
  | none => s

/-! ### Runs that end on a report (R126, R127) -/

/-- Whether an arrival takes the arrival effect: a car in step RECALLING, or the RECALL run of a car that a RETRY has taken from GIVEN_UP
while the run was in GRACE (R126, R141, R144, assumption 17). -/
def Run.recalls (r : Run) (c : Car) : Bool :=
  c.step = .recalling || (r.permit.cls = .recall && (c.step = .recallDue || c.step = .awaiting))

/-- ARRIVED at a landing for a car with an admitted permit (R126). -/
def State.endArrived (s : State) (n : CarName) (r : Run) (l : Landing) : State :=
  let s := ((s.dropRun n).endUnpermitted n).writePlace n (some l)
  let s := s.setMotion n .still
  let s := if s.carIs n r.recalls then s.arrivalEffect n else s
  s.endFollowUps n r.permit.origin

/-- Whether a HALTED counts an attempt: a RECALL run, but not in a GRACE begun by a run timeout (R127). -/
def Run.haltCounts (r : Run) : Bool :=
  r.permit.cls = .recall && (match r.state with | .grace .runTimeout _ => false | _ => true)

/-- HALTED for a car with an admitted permit (R127). -/
def State.endHalted (s : State) (n : CarName) (r : Run) (landing : Option Landing) (cause : HaltCause) : State :=
  let s := (((s.dropRun n).endUnpermitted n).writePlace n landing).comeToRest n
  let s := if r.haltCounts then s.countAttempt n else s
  let s := if r.permit.cls = .recall then s.recallFailed n (.halted cause) else s.atRestPlan n true
  s.endFollowUps n r.permit.origin

/-! ### Reports of cars at rest without an admitted permit (R25) -/

/-- Takes an entry or a waiting permit out, for R25. -/
def State.takeOut (s : State) (n : CarName) : State := if (s.entryOf n).isSome then s.removeEntry n else s.cancelWaiting n

/-- Class and destination of a car's entry or waiting permit. -/
def State.wish (s : State) (n : CarName) : Option (RunClass × Option Landing) :=
  match s.entryOf n with
  | some e => some (e.cls, e.destination)
  | none => (s.waitingOf n).map fun w => (w.permit.cls, w.permit.destination)

/-- An at-rest report of a REQUESTED or GRANTED car (R25). A RECALL entry or permit whose car is stranded gives way to a locate entry as
for any stranded car. Where the car rests at the destination, a RECALL one takes the arrival effect, whose new entry, for a recall landing
that has changed meanwhile, is made at once in PRE_TRANSFER too (R141, assumption 30). -/
def State.restWaiting (s : State) (n : CarName) (c : Car) : State :=
  match s.wish n with
  | none => s
  | some (cls, destination) =>
    if !c.rests then
      if destination.isNone then s
      else
        let s := (s.takeOut n).setMotion n .stranded
        if cls = .recall then s.locate n else s.refuse n .cancelled
    else if c.position = destination then
      let s := (s.takeOut n).setMotion n .still
      if cls = .recall then s.arrivalEffect n else s.refuse n .badLanding
    else s

/-- An at-rest report of a car that holds no admitted permit (R25). -/
def State.restReport (s : State) (n : CarName) : State :=
  match s.car n with
  | some c =>
    match c.motion with
    | .still | .stranded => s.comeToRest n
    | .requested | .granted => s.restWaiting n c
    | .starting | .running | .stopping | .out _ => s
  | none => s

/-- A late ARRIVED or HALTED, for a car that holds no admitted permit (R128). An ABANDON record waits for the at-rest STATUS (R132,
R142), so the Planner does not act on this report then. -/
def State.lateReport (s : State) (n : CarName) (landing : Option Landing) : State :=
  let moved := s.carIs n fun c => c.moving || c.between || c.position ≠ landing
  let s := (s.writePlace n landing).endUnpermitted n
  if s.carIs n fun c => c.motion.isOut then s
  else
    let s := s.restReport n
    if s.carIs n fun c => (match c.pending with | some x => x.kind = .abandon | none => false) then s else s.atRestPlan n moved

/-! ### Motion without a permit (R28, R134) -/

/-- Unpermitted motion of a car that holds no admitted permit, in a standby phase: its entry or waiting permit goes, it becomes STRANDED,
an episode begins. An OUT car keeps its out reason (R28, R128, R134). -/
def State.moveUnpermitted (s : State) (n : CarName) : State :=
  let s := s.dispose n
  let s := if s.carIs n fun c => c.motion.isOut then s else s.setMotion n .stranded
  s.unpermittedMotion n

/-! ### Runs that end on a timer (R125, R129, R130) -/

/-- The start timer runs out: the one cancellation of an admitted permit (R125). A shed credit of the run goes with it, though R65 does not
name a start timeout among the ends of a credit (assumption 63). -/
def State.startRunsOut (s : State) (n : CarName) (r : Run) : State :=
  let s := (s.refund n r.permit).modCar n fun c => { c with run := none, credit := none, pending := none }
  let s := s.comeToRest n
  if r.permit.cls = .recall then (s.countAttempt n).recallFailed n .noStart else s.refuse n .noStart

/-- The run timer runs out: STOP_NOW, GRACE with cause RUN_TIMEOUT, an attempt for a RECALL run (R129, R142). -/
def State.runRunsOut (s : State) (n : CarName) (r : Run) : State :=
  let s := (s.stopNow n).modCar n fun c => { c with run := some { r with state := .grace .runTimeout (s.inSeconds 10) } }
  if r.permit.cls = .recall then
    let s := s.countAttempt n
    if s.attemptsSpent n then s.giveUp n .runTimeout else s
  else s

/-- The out reason that a GRACE cause gives (R130). -/
def GraceCause.outReason : GraceCause → OutReason
  | .runTimeout => .runTimeout
  | .linkLost => .link

/-- The GRACE timer runs out: the permit is discarded without refund and the car goes OUT (R130). -/
def State.graceRunsOut (s : State) (n : CarName) (r : Run) (cause : GraceCause) : State :=
  let s := s.dropRun n
  let s := if cause = .runTimeout then s.toPanel (.alert (.runTimeout n r.permit.cls)) else s
  s.goOut n cause.outReason

end Sys2Proof.Machine
end

