-- ==== Sys2Proof/Machine/Reports.lean ====
section
/-! DEFINITION. The Car Table's taking of a STATUS report (chapter 2), and the frame of every meaning: what begins and ends a command
that comes over a link, from a line, or from a timer. -/

namespace Sys2Proof.Machine

/-- The outcome of a command. -/
abbrev Result := Host.Outcome State Fault Refusal

/-- A message over a link: its frame is good for the link (R159), then the block takes it, then the event ends. -/
def onLink (l : LinkId) (body : State → State) (s : State) (load : Bool := false) (asked : Option GroupNo := none) : Result :=
  let s0 := s.begin.goodFrame l
  .next (s0.endEvent (body s0) load asked)

/-- A message over a group link that names a car by its number. One that names no car, or an absent record, is discarded (R122). -/
def onCar (g : GroupNo) (car : Byte) (body : CarName → State → State) (s : State) : Result :=
  onLink (.group g) (fun s0 =>
    match carNoOf car with
    | some c => if s0.configured (carOf g c) then body (carOf g c) s0 else s0
    | none => s0) s

/-- An event of a line or of the part itself. -/
def onEvent (body : State → State) (s : State) (load : Bool := false) : Result :=
  .next (s.begin.endEvent (body s.begin) load)

/-- The expiry of a timer: it acts only while the timer runs, and the clock stands at the timer's end (assumption 1). -/
def onTimer (ends : Option Nat) (body : State → State) (s : State) : Result :=
  match ends with
  | some t => let s0 := s.begin.reach t; .next (s0.endEvent (body s0))
  | none => .next s.begin

/-! ### A record that a report configures (R21) -/

/-- The car's section, and with its first car the group's, become configured under the fallback table; the group joins the order list
at its end, and the group's release order stays the configured cars in ascending order (R21, R76, R136). -/
def State.configureRecord (s : State) (n : CarName) : State :=
  let g := groupOf n
  let table := s.table
  let known := (table.groups[g]).configured
  let cars := table.cars.set n { table.cars[n] with configured := true }
  let order := ((carNos.filter fun c => (cars[carOf g c]).configured).map fun c => c.val)
  { s with
    table := { table with
      cars := cars,
      groups := table.groups.set g { table.groups[g] with configured := true, releaseOrder := order } },
    cars := s.cars.set n (some Car.reset),
    groupOrder := if known then s.groupOrder else s.groupOrder ++ [g] }

/-- A newly configured car joins the recovery: it receives STAY and becomes AWAITING, but for a SETTLING takeover and the phases that are
no standby phases (R21). -/
def State.joinRecovery (s : State) (n : CarName) : State :=
  if s.standby && (s.phase ≠ .takeover || s.collecting) then (s.giveOrder n .stay).setStep n .awaiting else s

/-- Configures an absent car under the fallback table (R21). -/
def State.configureOn (s : State) (n : CarName) : State :=
  if s.fallback.isSome && !s.configured n then (s.configureRecord n).joinRecovery n else s

/-! ### The report's fields (R6, R24) -/

/-- The capture image that a report makes (R6). -/
def Report.image (r : Report) : Context :=
  { mode := r.mode, direction := r.direction, destination := r.destination, door := r.door, carCalls := r.carCalls }

/-- The record with the report's fields written (R24), its capture image in NORMAL (R6), and the note of a collection (R15). -/
def Car.accept (c : Car) (r : Report) (inNormal inCollection : Bool) : Car :=
  { c with
    position := r.position, between := r.between, door := r.door, load := r.load, moving := r.moving, direction := r.direction,
    mode := r.mode, occupied := r.occupied, fire := r.fire, fault := r.fault, faultCode := r.faultCode, powered := r.powered,
    image := if inNormal then some r.image else c.image,
    reported := c.reported || inCollection }

/-! ### Motion (R25 to R31) -/

/-- Whether an out reason ends on a report (R31). -/
def OutReason.ends (why : OutReason) (c : Car) : Bool :=
  match why with
  | .fault => !c.fault
  | .unpowered => c.powered
  | .link | .silent => true
  | .runTimeout => c.rests && !c.fault

/-- A report that makes the car OUT disposes of its entry, permit, run and pending record (R26, R27). -/
def State.putOut (s : State) (n : CarName) (why : OutReason) : State := ((s.dispose n).abandonRun n).goOut n why

/-- A report with the moving flag set begins an episode of unpermitted motion also where it finds the car OUT, or makes it so. A car
that held an admitted permit when the report came begins none (R28, R29, R134, assumption 27). -/
def State.watchMotion (s : State) (n : CarName) (c : Car) : State :=
  if c.moving && c.run.isNone && s.standby then s.moveUnpermitted n else s

/-- Whether a report makes a car that is not OUT OUT (UNPOWERED) (R27). -/
def Car.losesPower (c : Car) : Bool := !c.powered && !c.fault && c.order ≠ some .shut && c.order ≠ some .powerUp

/-- The motion of a car that is not OUT, after its report (R25, R27, R28, R29). -/
def State.moveByReport (s : State) (n : CarName) : State :=
  match s.car n with
  | some c =>
    if c.losesPower then (s.putOut n .unpowered).watchMotion n c
    else if c.run.isSome then s
    else if c.moving then s.watchMotion n c
    else s.restReport n
  | none => s

/-- The motion of a car after its report (R26, R28, R31, R134). A moving report that makes or leaves the car OUT is unpermitted motion too
(assumption 27). -/
def State.deriveMotion (s : State) (n : CarName) : State :=
  match s.car n with
  | some c =>
    match c.motion with
    | .out why =>
      if c.fault then (if why = .fault then s else s.putOut n .fault).watchMotion n c
      else if why.ends c then (s.comeToRest n).moveByReport n
      else s.watchMotion n c
    | _ => if c.fault then (s.putOut n .fault).watchMotion n c else s.moveByReport n
  | none => s

/-! ### What follows a report -/

/-- The at-rest STATUS that ends an unpermitted-motion reservation (R60, R134). -/
def State.endIfAtRest (s : State) (n : CarName) : State := if s.carIs n fun c => c.moving then s else s.endUnpermitted n

/-- The follow-ups of an ABANDON record at the first STATUS with the moving flag clear, whether or not a new run has been admitted since
(R38, R132, R133). -/
def State.abandonFollowUps (s : State) (n : CarName) : State :=
  match s.car n with
  | some c =>
    match c.pending with
    | some x => if x.kind = .abandon && !c.moving then s.applyFollowUps n x none else s
    | none => s
  | none => s

/-- An entry kept in step with its car's record: class by the fire flag, trapped flag by occupied flag and door (R83). -/
def State.keepEntry (s : State) (n : CarName) (e : Entry) : Entry :=
  if e.cls = .recall then { e with trapped := s.carIs n Car.isTrapped } else { e with cls := s.requestClass n }

/-- The entry of a reported car kept in step; a change of class removes the starvation-guard mark (R83, R94). -/
def State.syncEntry (s : State) (n : CarName) : State :=
  match s.entryOf n with
  | some e =>
    { s with
      requests := s.requests.set (groupOf n) ((s.requests[groupOf n]).map fun x => if x.car = n then s.keepEntry n x else x),
      mark := if s.mark = some n ∧ (s.keepEntry n e).cls ≠ e.cls then none else s.mark }
  | none => s

/-- A car that has left OUT, or has become configured, is planned at once in RECALL and SERVICE and on the return in PRE_TRANSFER
(R21, R31). A car that RETRY names while its run is in GRACE is planned by that run's end, or, still AWAITING, on the return
(assumption 17). -/
def State.planArrival (s : State) (n : CarName) : State :=
  if s.phase = .recall ∨ s.phase = .service then s.plan n
  else if s.phase = .preTransfer then s.modCar n fun c => { c with planDue := c.planDue || c.run.isNone }
  else s

/-- The powered report of a car whose POWER_UP was sent: PARKED with PARK, and no POWERING member any more (R27, R148). DESIGN CHOICE: while a
takeover is SETTLING the car becomes PARKED without PARK, since the part sends no order then, and its standing order stays POWER_UP until the
STAY that replaces it (R14, R34, assumption 31). -/
def State.poweringParked (s : State) (n : CarName) : State :=
  if (s.standby || s.phase = .outage) && s.carIs n fun c => c.step = .shut && c.order = some .powerUp && c.powered then
    (if s.phase = .takeover then s.setStep n .parked else s.park n).modCar n fun c => { c with member := none }
  else s

/-- The shed credit of a shut car ends with its unpowered report (R65). -/
def State.creditByReport (s : State) (n : CarName) : State :=
  if s.carIs n fun c => c.step = .shut && !c.powered then s.modCar n fun c => { c with credit := none } else s

/-- A report taken for a configured car: old is its record before, new says that the report configured it. The reclaim of a car that reports
itself stranded comes before the step PARKED of a SHUT car that was sent POWER_UP, so such a car stays PARKED and STRANDED until its next
report (R143, R148, assumption 65). -/
def State.takeReport (s : State) (n : CarName) (old : Car) (new : Bool) (r : Report) : State :=
  let s := s.modCar n fun c => c.accept r (s.phase = .normal) s.collecting
  let s := (s.deriveMotion n).endIfAtRest n
  let s := (s.abandonFollowUps n).syncEntry n
  let isOut := s.carIs n fun c => c.motion.isOut
  let s :=
    if (old.motion.isOut || new) && !isOut then s.planArrival n
    else if r.moving then s
    else s.atRestPlan n (old.moving || old.between || old.position ≠ r.position)
  let s := (s.poweringParked n).creditByReport n
  if old.fire && !r.fire then s.endFireRelease n else s

/-- A STATUS taken by the Car Table (R21, R23, R24). -/
def State.takeStatus (s : State) (n : CarName) (r : Report) : State :=
  let new := !s.configured n
  let s := s.configureOn n
  match s.car n with
  | some old => s.takeReport n old new r
  | none => s

end Sys2Proof.Machine
end

