-- ==== Sys2Proof/Machine/GroupMessages.lean ====
section
/-! DEFINITION. The meanings of the messages of a group link: STATUS, REQUEST, WITHDRAW, STARTED, ARRIVED, HALTED (section 12.3). -/

namespace Sys2Proof.Machine

/-- STATUS (R21, R23 to R31). A car number outside 0 to 7 names no car. -/
def execStatus (g : GroupNo) (r : StatusBytes) (s : State) : Result :=
  onLink (.group g) (fun s0 =>
    match carNoOf r.car with
    | some c => s0.takeStatus (carOf g c) (reportOf r)
    | none => s0) s

/-- The landing that a REQUEST may be granted for: in the group's served range and not the car's position (R84). -/
def State.requestLanding (s : State) (n : CarName) (c : Car) (dest : Byte) : Option Landing :=
  match landingOf dest with
  | some l => if (s.table.groups[groupOf n]).serves l.val && c.position ≠ some l then some l else none
  | none => none

/-- The first test of R84 that fails for a configured car: the reason, or the landing of an accepted REQUEST. -/
def State.testRequest (s : State) (n : CarName) (c : Car) (dest : Byte) : Except RefuseReason Landing :=
  if !(s.phase = .service || (s.phase = .recall && c.step = .service)) then .error .phase
  else if c.owner ≠ .group then .error .notOwner
  else if c.motion.isOut || c.motion = .stranded || c.position.isNone then .error .out
  else if c.motion = .granted || c.motion = .starting || c.motion = .running || c.motion = .stopping then .error .busy
  else
    match s.requestLanding n c dest with
    | some l => .ok l
    | none => .error .badLanding

/-- An accepted REQUEST of a REQUESTED car: its entry takes the new destination and keeps its arrival and place; a mark on it goes
(R85, R94). -/
def State.redirectRequest (s : State) (n : CarName) (l : Landing) : State :=
  { s with
    requests := s.requests.set (groupOf n)
      ((s.requests[groupOf n]).map fun e => if e.car = n then { e with destination := some l, cls := s.requestClass n } else e),
    mark := if s.mark = some n then none else s.mark }

/-- An accepted REQUEST; acceptance re-runs selection, also where the entry comes out as it was (R85). -/
def State.acceptRequest (s : State) (n : CarName) (c : Car) (l : Landing) : State :=
  (if c.motion = .requested then s.redirectRequest n l else s.addEntry n (s.requestClass n) (some l) s.tenths).askSelection

/-- REQUEST taken by the Selector (R84, R85). -/
def State.takeRequest (s : State) (g : GroupNo) (car dest : Byte) : State :=
  match carNoOf car with
  | none => s.toGroup g (.refuse car .noCar)
  | some c =>
    match s.car (carOf g c) with
    | none => s.toGroup g (.refuse car .noCar)
    | some x =>
      match s.testRequest (carOf g c) x dest with
      | .error why => s.toGroup g (.refuse car why)
      | .ok l => s.acceptRequest (carOf g c) x l

/-- REQUEST (R84, R85). -/
def execRequest (g : GroupNo) (car dest : Byte) (s : State) : Result := onLink (.group g) (fun s0 => s0.takeRequest g car dest) s

/-- An accepted WITHDRAW: the entry goes, or the waiting permit is cancelled with refund; the car comes to rest (R86). -/
def State.acceptWithdraw (s : State) (n : CarName) : State :=
  if (s.entryOf n).isSome then (s.removeEntry n).comeToRest n
  else if (s.waitingOf n).isSome then (s.cancelWaiting n).comeToRest n
  else s

/-- WITHDRAW taken by the Selector (R86). -/
def State.takeWithdraw (s : State) (g : GroupNo) (car : Byte) : State :=
  match carNoOf car with
  | none => s.toGroup g (.refuse car .noCar)
  | some c =>
    match s.car (carOf g c) with
    | none => s.toGroup g (.refuse car .noCar)
    | some x =>
      if x.owner ≠ .group then s.toGroup g (.refuse car .notOwner)
      else if x.motion = .starting || x.motion = .running || x.motion = .stopping then s.toGroup g (.refuse car .busy)
      else s.acceptWithdraw (carOf g c)

/-- WITHDRAW (R86). -/
def execWithdraw (g : GroupNo) (car : Byte) (s : State) : Result := onLink (.group g) (fun s0 => s0.takeWithdraw g car) s

/-- STARTED of a permit in STARTED-WAIT: RUNNING with the run timer at the run limit (R124). -/
def State.runStarted (s : State) (n : CarName) (r : Run) : State :=
  s.modCar n fun c =>
    { c with
      run := some { r with state := .running (s.inTenths r.limit) },
      motion := if c.motion = .starting then .running else c.motion }

/-- STARTED for a configured car (R124, R128). -/
def State.takeStarted (s : State) (n : CarName) : State :=
  match s.runOf n with
  | some r =>
    match r.state with
    | .startedWait _ => s.runStarted n r
    | .running _ | .grace _ _ => s
  | none => if s.standby then s.moveUnpermitted n else s

/-- STARTED (R122, R124, R128). -/
def execStarted (g : GroupNo) (car : Byte) (s : State) : Result := onCar g car (fun n s0 => s0.takeStarted n) s

/-- HALTED for a configured car (R127, R128). -/
def State.takeHalted (s : State) (n : CarName) (landing : Option Landing) (cause : HaltCause) : State :=
  match s.runOf n with
  | some r => s.endHalted n r landing cause
  | none => s.lateReport n landing

/-- ARRIVED for a configured car; a landing outside 0 to 127 is taken as HALTED with position unknown and cause OTHER (R126, R128). -/
def State.takeArrived (s : State) (n : CarName) (landing : Option Landing) : State :=
  match landing with
  | none => s.takeHalted n none .other
  | some l =>
    match s.runOf n with
    | some r => s.endArrived n r l
    | none => s.lateReport n (some l)

/-- ARRIVED (R122, R126, R128). -/
def execArrived (g : GroupNo) (car landing : Byte) (s : State) : Result :=
  onCar g car (fun n s0 => s0.takeArrived n (landingOf landing)) s

/-- HALTED (R122, R127, R128, R160). -/
def execHalted (g : GroupNo) (car landing cause : Byte) (s : State) : Result :=
  onCar g car (fun n s0 => s0.takeHalted n (landingOf landing) (haltCauseOf cause)) s

end Sys2Proof.Machine
end

