-- ==== Sys2Proof/Machine/Lines.lean ====
section
/-! DEFINITION. The meanings of the events of the STRAIN and TRIP lines and of the Strain Monitor's timers (chapter 8). -/

namespace Sys2Proof.Machine

/-- The STRAIN line is asserted; a line that stays asserted causes nothing further, and blanking disregards it (R114, R115). -/
def State.strainRises (s : State) : State :=
  let was := s.strainLine
  let s := { s with strainLine := true }
  if was || s.blankTimer.isSome then s else s.startFilter

/-- STRAIN_ASSERTED (R114). -/
def execStrainAsserted (s : State) : Result := onEvent State.strainRises s

/-- The STRAIN line is released: the filter stops, and an asserted filtered strain clears at once, after which a resume may follow (R114,
R118). -/
def State.strainFalls (s : State) : State :=
  let s := { s with strainLine := false }
  if s.blankTimer.isSome then s
  else if s.filtered then { s with filterTimer := none, filtered := false }.resumeIfClear
  else { s with filterTimer := none }

/-- STRAIN_RELEASED (R114). -/
def execStrainReleased (s : State) : Result := onEvent State.strainFalls s

/-- The admitted runs that a TRIP abandons: those in STARTED-WAIT or RUNNING (R120). -/
def State.inFlightCars (s : State) : List CarName :=
  carNames.filter fun n => match s.runOf n with | some r => r.state.inFlight | none => false

/-- The order of a TRIP: a wait order under OPERATOR, a hold order otherwise; ALERT TRIP with the pacer state it leaves; ALERT
WAIT_RESTART when the pacer enters WAIT_RESTART (R120, R121). -/
def State.tripOrder (s : State) (abandoned cancelled : Nat) : State :=
  let before := s.pacer
  let s := if s.table.site.strainMode = .operator then s.waitOrder else s.holdOrder
  let s := s.toPanel (.alert (.trip abandoned cancelled s.pacer))
  if s.pacer = .waitRestart && before ≠ .waitRestart then s.alertWaitRestart 0#8 else s

/-- The TRIP line is asserted: runs are abandoned in ascending car name order, then permits cancelled, queue from head to tail, then the slot
(R120, assumption 56). -/
def State.tripRises (s : State) : State :=
  let runs := s.inFlightCars
  let waits := s.waiting
  let s := { s with tripLine := true, trip := true }
  let s := runs.foldl State.abandonRun s
  let s := waits.foldl State.cancelAndRenew s
  s.tripOrder runs.length waits.length

/-- TRIP_ASSERTED (R120); its one LOAD is sent in any case. -/
def execTripAsserted (s : State) : Result := onEvent State.tripRises s true

/-- TRIP_RELEASED (R121). -/
def execTripReleased (s : State) : Result :=
  onEvent (fun s0 => { s0 with tripLine := false, trip := false }.resumeIfClear) s

/-- FILTER_TIMER_EXPIRY (R114, R116). -/
def execFilterTimerExpiry (s : State) : Result := onTimer s.filterTimer State.assertFiltered s

/-- The end of blanking: the line is read (R115). -/
def State.blankingEnds (s : State) : State :=
  let s := { s with blankTimer := none }
  if s.strainLine then s.startFilter else s

/-- BLANKING_TIMER_EXPIRY (R115). -/
def execBlankingTimerExpiry (s : State) : Result := onTimer s.blankTimer State.blankingEnds s

end Sys2Proof.Machine
end

