-- ==== Sys2Proof/Machine/Maintenance.lean ====
section
/-! DEFINITION. The meanings of the maintenance port's commands (R163, R164), of a dropped frame (R158) and of a device reset (R1, R165). -/

namespace Sys2Proof.Machine

/-- Whether the phase admits a change of the site table (R163). -/
def State.tableOpen (s : State) : Bool := s.phase = .startup || s.phase = .normal

/-- Sends a frame on the maintenance port. -/
def State.toPort (s : State) (m : OutMsg) : State := s.emit .maintenance m

/-- TABLE_WRITE taken by the Site Table Store (R163). -/
def State.takeWrite (s : State) (sectionNo : Byte) (values : List Byte) : State :=
  if !s.tableOpen then s.toPort (.tableRefused 0x50#8 .phase (SectionName.ofByte sectionNo))
  else
    match SectionName.ofByte sectionNo with
    | none => s.toPort (.tableRefused 0x50#8 .format none)
    | some sec =>
      match s.pendingImage.write sec values with
      | some img => { s with pendingImage := img }.toPort (.tableDone sec)
      | none => s.toPort (.tableRefused 0x50#8 .format (some sec))

/-- TABLE_WRITE (R163). -/
def execTableWrite (sectionNo : Byte) (values : List Byte) (s : State) : Result :=
  onEvent (fun s0 => s0.takeWrite sectionNo values) s

/-- A record under a new table: configured or absent as the table names it (R21). -/
def commitCar (img : Image) (n : CarName) (old : Option Car) : Option Car :=
  if (img.cars[n]).configured then some (old.getD Car.reset) else none

/-- An accepted commit: the storage write begins, of the image with its check value; the image is in effect in the same event, with the resets that follow (R21, R76, R98, R164). -/
def State.commit (s : State) (img : Image) : State :=
  { s with
    stored := some ⟨img, crc16 img.contents⟩, table := img, fallback := none, pendingImage := img,
    cars := Vector.ofFn fun n => commitCar img n (s.cars[n]),
    groupOrder := groupNos.filter fun g => (img.groups[g]).configured,
    profile := img.site.profile, staged := none, written := some s.now }

/-- TABLE_COMMIT taken by the Site Table Store (R163, R164). -/
def State.takeCommit (s : State) (value : Byte) : State :=
  if !s.tableOpen then s.toPort (.tableRefused 0x51#8 .phase none)
  else if value ≠ 0#8 then s.toPort (.tableRefused 0x51#8 .format none)
  else
    match s.pendingImage.firstFailure with
    | some why => s.toPort (.tableRefused 0x51#8 why.1 why.2)
    | none => (s.commit s.pendingImage).toPort .tableCommitted

/-- TABLE_COMMIT (R164). A commit announces no CAR summaries (assumption 18): they are reckoned from the records it leaves. -/
def execTableCommit (value : Byte) (s : State) : Result :=
  let s1 := s.begin.takeCommit value
  .next ({ s.begin with cars := s1.cars }.endEvent s1)

/-- TABLE_READ taken by the Site Table Store (R163). -/
def State.takeRead (s : State) (sectionNo from_ : Byte) : State :=
  match SectionName.ofByte sectionNo with
  | none => s.toPort (.tableRefused 0x52#8 .format none)
  | some sec =>
    if from_ = 0#8 then s.toPort (.tableData sec (s.table.read sec))
    else if from_ = 1#8 then s.toPort (.tableData sec (s.pendingImage.read sec))
    else s.toPort (.tableRefused 0x52#8 .format (some sec))

/-- TABLE_READ (R163). -/
def execTableRead (sectionNo from_ : Byte) (s : State) : Result := onEvent (fun s0 => s0.takeRead sectionNo from_) s

/-- DROPPED_FRAME (R158): a good frame of an unaccepted type or length still counts for its link; a bad one changes nothing. -/
def execDroppedFrame (port : Port) (bytes : List Byte) (s : State) : Result :=
  match port with
  | .link l =>
    let s0 := if isGood bytes then s.begin.goodFrame l else s.begin
    .next (s0.endEvent s0)
  | .maintenance => .next s.begin

/-- The stored table that a device reset finds: one whose CRC-16 does not match where the reset falls during the storage write. How long
after the commit that still is is a free value (R164, assumption 55). -/
def State.foundStore (s : State) : Option StoredTable :=
  match s.written with
  | some t => if Config.tearsWrite (s.now - t) then s.stored.map StoredTable.torn else s.stored
  | none => s.stored

/-- Every block at its reset values under the table that R165 puts in effect, with what a device reset keeps: the stored table, the
lines' levels, and the model's own fields. -/
def State.afterReset (s : State) : State :=
  let img := match storedFailure s.foundStore, s.foundStore with
    | none, some t => t.image
    | _, _ => fallbackImage
  { State.resetWith img (storedFailure s.foundStore) s.foundStore with
    strainLine := s.strainLine, tripLine := s.tripLine, now := s.now, grants := s.grants, pending := s.pending }

/-- At the end of a device reset the Strain Monitor reads both lines once (R113). -/
def State.readLines (s : State) : State :=
  let s := if s.strainLine then s.startFilter else s
  if s.tripLine then { s with trip := true } else s

/-- DEVICE_RESET (R1, R165). -/
def execDeviceReset (s : State) : Result := .next s.afterReset.readLines

end Sys2Proof.Machine
end

