-- ==== Sys2Proof/Machine/PanelMessages.lean ====
section
/-! DEFINITION. The meanings of the messages of the panel link: SELECT, BLOCK, UNBLOCK, RESTART, RETRY (section 12.5). -/

namespace Sys2Proof.Machine

/-- REFUSED to the panel, with the type of the refused message (R162). -/
def State.refused (s : State) (type : Byte) (reason : RefusedReason) : State := s.toPanel (.refused type reason)

/-- The group that a panel message names, if it is configured (R139, R147, R162). -/
def State.panelGroup (s : State) (group : Byte) : Option GroupNo :=
  match groupNoOf group with
  | some g => if s.groupConfigured g then some g else none
  | none => none

/-! ### SELECT -/

/-- A selection that names no absent car (R147). -/
def State.selectionAllowed (s : State) (g : GroupNo) : Selection → Bool
  | .auto | .nobody => true
  | .car c => s.configured (carOf g c)

/-- The members that a new selection drops: ORDINARY and POWERING ones that are no candidates under it (R147). -/
def State.dropMember (s : State) (n : CarName) : State :=
  match s.car n with
  | some c =>
    match c.member with
    | some m => if m.counts && !(s.candidatesOf (groupOf n)).contains n then s.leaveSet n else s
    | none => s
  | none => s

/-- An accepted SELECT; in SERVICE it is acted on at once, and the fill comes with the event's end (R147). DESIGN CHOICE: the members are
dropped in ascending car number (assumption 56). -/
def State.acceptSelect (s : State) (g : GroupNo) (sel : Selection) : State :=
  let s := { s with selection := s.selection.set g sel }
  if s.phase = .service then (groupCars g).foldl (fun acc n => acc.dropMember n) s else s

/-- SELECT taken by the Recall Planner (R147, R162). -/
def State.takeSelect (s : State) (group selection : Byte) : State :=
  match s.panelGroup group with
  | none => s.refused 0x40#8 .noGroup
  | some g =>
    match selectionOf selection with
    | none => s.refused 0x40#8 .noCar
    | some sel => if s.selectionAllowed g sel then s.acceptSelect g sel else s.refused 0x40#8 .noCar

/-- The group whose set an accepted SELECT makes due for a fill (R148). -/
def State.selectFills (s : State) (group selection : Byte) : Option GroupNo :=
  match s.panelGroup group, selectionOf selection with
  | some g, some sel => if s.selectionAllowed g sel then some g else none
  | _, _ => none

/-- SELECT (R147). -/
def execSelect (group selection : Byte) (s : State) : Result :=
  onLink .panel (fun s0 => s0.takeSelect group selection) s false ((s.begin.goodFrame .panel).selectFills group selection)

/-! ### BLOCK and UNBLOCK -/

/-- A RECALL entry with a new destination; it keeps its arrival and its place, and a mark on it goes (R94, R139, R140). -/
def State.redirectRecall (s : State) (n : CarName) (l : Landing) : State :=
  { s with
    requests := s.requests.set (groupOf n)
      ((s.requests[groupOf n]).map fun e => if e.car = n then { e with destination := some l } else e),
    mark := if s.mark = some n then none else s.mark }

/-- A RECALL entry whose destination has been blocked (R140). -/
def State.blockEntry (s : State) (n : CarName) (c : Car) : State :=
  if s.atRecallLanding n c then ((s.removeEntry n).comeToRest n).arrivalEffect n
  else
    match c.position.bind (s.recallLanding (groupOf n)) with
    | some l => s.redirectRecall n l
    | none => s.parkInPlace n

/-- A waiting RECALL permit whose destination has been blocked (R140); a car already at its new recall landing takes the arrival effect
(R141). -/
def State.blockWaiting (s : State) (n : CarName) (c : Car) (w : Waiting) : State :=
  let s := (s.cancelWaiting n).comeToRest n
  if s.atRecallLanding n c then s.arrivalEffect n else s.recallEntry n w.permit.origin

/-- A car in DWELL at a landing that has been blocked: the dwell timer stops, and the car becomes RECALL_DUE with STAY and an entry for
another recall landing, or is parked in place (R140). -/
def State.blockDwell (s : State) (n : CarName) : State := (s.stopDwell n).sendToRecall n

/-- What a landing that joins the blocked set does to one car of the group (R140). -/
def State.blockCar (s : State) (l : Landing) (n : CarName) : State :=
  match s.car n with
  | some c =>
    match s.entryOf n with
    | some e => if e.cls = .recall && e.destination = some l then s.blockEntry n c else s
    | none =>
      match s.waitingOf n with
      | some w => if w.permit.cls = .recall && w.permit.destination = some l then s.blockWaiting n c w else s
      | none =>
        match c.run with
        | some r =>
          if r.permit.cls = .recall && r.permit.destination = some l && c.step = .recalling then
            s.curtailRun n ⟨false, false, true⟩
          else s
        | none => if c.step = .dwell && c.position = some l && !c.motion.isOut then s.blockDwell n else s
  | none => s

/-- A landing joins the blocked set, and acts in RECALL, SERVICE and PRE_TRANSFER (R139, R140). DESIGN CHOICE: on the group's cars in
ascending car number (assumption 56). -/
def State.joinBlocked (s : State) (g : GroupNo) (l : Landing) : State :=
  let s := { s with blocked := s.blocked.set g (s.blocked[g] ++ [l]) }
  if s.phase = .recall ∨ s.phase = .service ∨ s.phase = .preTransfer then
    (groupCars g).foldl (fun acc n => acc.blockCar l n) s
  else s

/-- BLOCK taken by the Recall Planner (R139, R162). -/
def State.takeBlock (s : State) (group landing : Byte) : State :=
  match s.panelGroup group with
  | none => s.refused 0x41#8 .noGroup
  | some g =>
    match landingOf landing with
    | none => s.refused 0x41#8 .noLanding
    | some l =>
      if (s.blocked[g]).contains l then s
      else if 8 ≤ (s.blocked[g]).length then s.refused 0x41#8 .full
      else s.joinBlocked g l

/-- BLOCK (R139, R140). -/
def execBlock (group landing : Byte) (s : State) : Result := onLink .panel (fun s0 => s0.takeBlock group landing) s

/-- What an UNBLOCK does to one car's RECALL entry: another recall landing is taken up as its destination (R139), or, where the car is
already at it, the entry goes and the car takes the arrival effect without a run (R43). A locate entry has no destination and is not
touched. -/
def State.unblockEntry (s : State) (n : CarName) : State :=
  match s.car n, s.entryOf n with
  | some c, some e =>
    match c.position.bind (s.recallLanding (groupOf n)) with
    | some l =>
      if e.cls = .recall && e.destination.isSome && e.destination ≠ some l then
        if s.atRecallLanding n c then ((s.removeEntry n).comeToRest n).arrivalEffect n else s.redirectRecall n l
      else s
    | none => s
  | _, _ => s

/-- What an UNBLOCK does to a car with its no-landing mark set, PARKED and in no service set: the mark goes, and the car is planned from
step RECALL_DUE, unless it is OUT (R139). -/
def State.unblockParked (s : State) (n : CarName) : State :=
  if s.carIs n (fun c => c.noLanding && c.step = .parked && c.member.isNone) then s.replanInPlace n else s

/-- A landing leaves the blocked set, and acts in RECALL and SERVICE (R139). DESIGN CHOICE: first on the entries and then on the cars parked
in place, each in ascending car number (assumption 56). -/
def State.leaveBlocked (s : State) (g : GroupNo) (l : Landing) : State :=
  let s := { s with blocked := s.blocked.set g ((s.blocked[g]).filter fun x => x ≠ l) }
  if s.phase = .recall ∨ s.phase = .service then
    (groupCars g).foldl (fun acc n => acc.unblockParked n) ((groupCars g).foldl (fun acc n => acc.unblockEntry n) s)
  else s

/-- UNBLOCK taken by the Recall Planner (R139, R162). -/
def State.takeUnblock (s : State) (group landing : Byte) : State :=
  match s.panelGroup group with
  | none => s.refused 0x42#8 .noGroup
  | some g =>
    match landingOf landing with
    | none => s.refused 0x42#8 .noLanding
    | some l => if (s.blocked[g]).contains l then s.leaveBlocked g l else s

/-- UNBLOCK (R139). -/
def execUnblock (group landing : Byte) (s : State) : Result := onLink .panel (fun s0 => s0.takeUnblock group landing) s

/-! ### RESTART and RETRY -/

/-- RESTART taken by the Start Pacer (R119). -/
def State.takeRestart (s : State) (number : Byte) : State :=
  if s.pacer = .waitRestart then
    if s.trip || s.filtered then s.alertWaitRestart number else s.resume
  else s

/-- RESTART (R119). -/
def execRestart (number : Byte) (s : State) : Result := onLink .panel (fun s0 => s0.takeRestart number) s

/-- An accepted RETRY: attempts 0, OUT (RUN_TIMEOUT) ended, a GIVEN_UP car AWAITING with STAY, and the plan the phase calls for (R144). The
STAY is sent at once also while a takeover is SETTLING, where R14 has the part send no order (assumption 61). -/
def State.acceptRetry (s : State) (n : CarName) (c : Car) : State :=
  let s := s.modCar n fun x => { x with attempts := 0 }
  let s := if c.motion = .out .runTimeout then s.comeToRest n else s
  let s := if c.step = .givenUp then (s.giveOrder n .stay).setStep n .awaiting else s
  if s.carIs n fun x => x.motion.isOut then s else s.planArrival n

/-- RETRY taken by the Recall Planner (R144, R162). -/
def State.takeRetry (s : State) (car : Byte) : State :=
  match carNameOf car with
  | none => s.refused 0x44#8 .noCar
  | some n =>
    match s.car n with
    | none => s.refused 0x44#8 .noCar
    | some c =>
      if s.phase = .startup ∨ s.phase = .normal ∨ s.phase = .outage then s.refused 0x44#8 .phase
      else if c.step ≠ .givenUp ∧ c.motion ≠ .out .runTimeout then s.refused 0x44#8 .notGivenUp
      else s.acceptRetry n c

/-- RETRY (R144). -/
def execRetry (car : Byte) (s : State) : Result := onLink .panel (fun s0 => s0.takeRetry car) s

end Sys2Proof.Machine
end

