-- ==== Sys2Proof/Machine/PowerMessages.lean ====
section
/-! DEFINITION. The meanings of the messages of the power link: SOURCE, CAPACITY, PROFILE (section 12.4). -/

namespace Sys2Proof.Machine

/-- SOURCE (R2): a message outside its codes is discarded; its frame still counts as good. -/
def execSource (state kind : Byte) (s : State) : Result :=
  let s0 := s.begin.goodFrame .power
  match sourceStateOf state, transKindOf kind with
  | some x, some k =>
    let s1 := s0.takeSource x k
    .next ((s0.sourceBase s1).endEvent s1 (s0.sourceSendsLoad x))
  | _, _ => .next (s0.endEvent s0)

/-- CAPACITY (R55): both figures replaced, the silence clamp cleared, the derived figures recomputed at the event's end. -/
def execCapacity (offered absorb : BitVec 16) (s : State) : Result :=
  onLink .power (fun s0 => { s0 with offered := capacityOf offered, absorb := capacityOf absorb, clamp := false }) s

/-- PROFILE (R111, R112): staged, and made active at once where the pacer is HALTED, in HOLD or in WAIT_RESTART. Its event is reckoned from
the staging, so that an activation shows. -/
def execProfile (p : ProfileBytes) (s : State) : Result :=
  let s0 := { s.begin.goodFrame .power with staged := some (profileBytesOf p) }
  .next (s0.endEvent (if s0.pacer.cycling then s0 else s0.activateStaged))

end Sys2Proof.Machine
end

