-- ==== Sys2Proof/Machine/Scheduling.lean ====
section
/-! DEFINITION. The meanings of the part's own decisions: CLEAR (R152), ADMISSION (R108), GRANT (R93) (assumption 2); and what a step does
when no command waits (assumption 1). -/

namespace Sys2Proof.Machine

/-- CLEAR: one evaluation of the CLEAR condition (R152). The events of R152 evaluate it by themselves (State.clearAfter, assumption 62). -/
def execClear (s : State) : Result := onEvent State.tryClear s

/-- Whether the pacer's state admits a kind: either under UNIFIED mode, MOTOR in OPEN_A and REGEN in OPEN_B under SPLIT (R108). -/
def State.admits (s : State) (k : Kind) : Bool :=
  match s.pacer with
  | .openA => s.profile.mode = .unified || k = .motor
  | .openB => k = .regen
  | .halted | .settleA | .settleB | .hold | .waitRestart => false

/-- The permit that an attempt admits: the first from the head that is of an admitted kind and passes its re-check, in an OPEN state whose
admitted mark is clear (R108). -/
def State.nextStart (s : State) : Option Waiting :=
  if s.admitted then none else s.queue.find? fun w => s.admits w.permit.kind && s.recheck w.permit

/-- The run limit, in tenths of a second: T_base + F × T_floor (R123). -/
def State.runLimit (s : State) (n : CarName) (p : Permit) : Nat :=
  ((s.table.groups[groupOf n]).tBase + p.floors * (s.table.groups[groupOf n]).tFloor) * 10

/-- The run as admission puts it into the live-permit field: STARTED-WAIT with the start timer at 8.0 s (R123). -/
def State.newRun (s : State) (w : Waiting) : Run :=
  { permit := w.permit, limit := s.runLimit w.car w.permit, state := .startedWait (s.inSeconds 8) }

/-- START on the car's group link (R123). -/
def State.sendStart (s : State) (w : Waiting) : State :=
  s.toGroup (groupOf w.car) (.start (numberOf w.car) w.permit.destination w.permit.cls (s.runLimit w.car w.permit))

/-- The admission of a permit (R108, R115, R123, R141). -/
def State.startPermit (s : State) (w : Waiting) : State :=
  let run := s.newRun w
  let s := { s with queue := s.queue.filter fun x => x.car ≠ w.car }
  let s := (s.modCar w.car fun c => { c with run := some run, motion := .starting }).sendStart w
  let s := if w.permit.cls = .recall && s.carIs w.car (fun c => c.step = .recallDue) then s.setStep w.car .recalling else s
  { s.startBlanking with admitted := true }.leaveOpen

/-- One admission attempt; none is due then, until the next event of R108 (R108). -/
def State.attemptAdmission (s : State) : State :=
  let s := { s with admissionDue := false }
  match s.nextStart with
  | some w => s.startPermit w
  | none => s

/-- ADMISSION (R108). -/
def execAdmission (s : State) : Result := onEvent State.attemptAdmission s

/-- One selection with what its event ends with. A selection that grants sends LOAD, also where pre-emption has freed what the grant reserves
(R88, R93). -/
def State.makeSelection (s : State) : State :=
  let s1 := s.select
  s.endEvent s1 (s.grants ≠ s1.grants)

/-- The run of selections, at most so many: each that grants is followed by another at once, and one that grants nothing ends the run (R88,
assumption 2). -/
def State.selections (s : State) : Nat → State
  | 0 => s
  | n + 1 =>
    let t := s.makeSelection
    if t.grants = s.grants then { t with selectionDue := false } else t.selections n

/-- How many selections one GRANT may make: far more than the start queue has places. What is left of a longer run stays due (assumption 2). -/
def longestRun : Nat := 64

/-- GRANT: the run of selections that an event has made due, the first with its grant and each that follows from it (R88, R93). -/
def execGrant (s : State) : Result := .next (s.begin.selections longestRun)

/-- The decision of the part's own that is due: an admission attempt first, then the run of selections. R109 and R93 let either be taken first
(assumption 2). -/
def State.decisionDue (s : State) : Option Instr :=
  if s.admissionDue then some .admission else if s.selectionDue then some .grant else none

/-- What a step does on an empty queue while no decision is due: 50 ms pass, and nothing is on the links (assumption 1). -/
def State.idle (s : State) : State := { s with now := s.now + 1, outbox := [] }

end Sys2Proof.Machine
end

