-- ==== Sys2Proof/Machine/Timers.lean ====
section
/-! DEFINITION. The meanings of the timers: takeover, pre-transfer, accounts, windows, pacer, runs, dwells, silence. -/

namespace Sys2Proof.Machine

/-- SILENCE_TIMER_EXPIRY (R159). -/
def execSilenceTimerExpiry (l : LinkId) (s : State) : Result := onTimer (s.link l).silence (fun s0 => s0.silenceRunsOut l) s

/-! ### Takeover (R14 to R16) -/

/-- The end of the takeover stage's timer, in a stage. -/
def State.stageEnds (s : State) (stage : TakeoverStage) : Option Nat :=
  match s.takeover with
  | some t => if t.stage = stage then some t.ends else none
  | none => none

/-- One car at the STAY step: STAY, and AWAITING from step NORMAL; the collection has noted nothing yet (R14, R15). -/
def State.stayCar (s : State) (n : CarName) : State :=
  let s := (s.giveOrder n .stay).modCar n fun c => { c with reported := false }
  if s.carIs n fun c => c.step = .normal then s.setStep n .awaiting else s

/-- The STAY step: STAY, steps, QUERY, collection of 3.0 s (R14). -/
def State.stayStep (s : State) : State :=
  let s := s.forCars fun n acc => acc.stayCar n
  let s := groupNos.foldl (fun acc g => acc.toGroup g .query) s
  { s with takeover := some ⟨.collecting, s.inSeconds 3⟩ }

/-- STANDBY_SETTLE_EXPIRY (R14). -/
def execStandbySettleExpiry (s : State) : Result := onTimer (s.stageEnds .settling) State.stayStep s

/-- The marking of a car with no report noted (R15). -/
def State.markSilent (s : State) (n : CarName) : State :=
  match s.car n with
  | some c =>
    if c.reported || c.motion.isOut then s
    else s.goOut n (if s.linkUp (.group (groupOf n)) then .silent else .link)
  | none => s

/-- One car at step 5: a car parked in place that now has a recall landing leaves its place (R139); every other car that is not OUT is
planned; a PARKED car that is OUT and every SHUT car are told their order again (R137). -/
def State.planCar (s : State) (n : CarName) : State :=
  match s.car n with
  | some c =>
    if s.mayLeavePlace n c then s.replanInPlace n
    else if c.step = .shut then s.giveOrder n .shut
    else if c.motion.isOut then (if c.step = .parked then s.giveOrder n (s.parkOrder n) else s)
    else s.plan n
  | none => s

/-- Step 6: the phase becomes RECALL, a HALTED pacer leaves HALTED, and the Selector may grant at once (R16, R17, R105). -/
def State.startRecall (s : State) : State :=
  let s := { s.askSelection with takeover := none, phase := .recall }.phaseNotice
  if s.pacer = .halted then s.leaveHalted else s

/-- The marking, and step 4: BL from the records, with the examination of R64 for its change, before any car is planned (R15, R16,
assumption 5). -/
def State.stepFour (s : State) : State :=
  s.examineChange { (s.forCars fun n acc => acc.markSilent n) with blHeld := false }.refresh

/-- The end of the collection: marking, BL, plans, RECALL (R15, R16). -/
def State.endCollection (s : State) : State := (s.stepFour.forCars fun n acc => acc.planCar n).startRecall

/-- The state from which the end of the event is reckoned: the figures are those that step 4 has examined. -/
def State.collectionBase (s0 : State) : State :=
  let s := s0.stepFour
  { s0 with usable := s.usable, absorbRoom := s.absorbRoom, stepMax := s.stepMax, peak := s.peak, bl := s.bl, ml := s.ml, rl := s.rl }

/-- COLLECTION_TIMER_EXPIRY (R16); step 4 sends LOAD in any case. -/
def execCollectionTimerExpiry (s : State) : Result :=
  match s.stageEnds .collecting with
  | some t => let s0 := s.begin.reach t; .next (s0.collectionBase.endEvent s0.endCollection true)
  | none => .next s.begin

/-! ### The pre-transfer timer (R153) -/

/-- The timer runs out: the forced CLEAR, or the expiry mark where the power link is DOWN (R153). -/
def State.preTransferEnds (s : State) : State :=
  let s := { s with preTimer := none }
  match s.handshake with
  | some h =>
    if h.clearSent then s
    else if s.linkUp .power then s.forceClear h
    else { s with handshake := some { h with expired := true } }
  | none => s

/-- PRE_TRANSFER_TIMER_EXPIRY (R153). -/
def execPreTransferTimerExpiry (s : State) : Result := onTimer s.preTimer State.preTransferEnds s

/-! ### Accounts and windows (R71, R78) -/

/-- One account tick: each account less its own decrement, stopping at 0; the next tick 1.0 s on; the Selector is told (R71). -/
def State.tick (s : State) : State :=
  { s.askSelection with
    accounts := Vector.ofFn fun g => s.accounts[g] - (s.table.groups[g]).decr,
    serviceAccount := s.serviceAccount - s.table.site.svcDecr,
    tickTimer := some (s.now + Config.tickPeriod) }

/-- ACCOUNT_TICK (R71). -/
def execAccountTick (s : State) : Result := onTimer s.tickTimer State.tick s

/-- The window changes to the other, its timer restarts, and a PHASE notice goes out (R78, R79). -/
def State.turnWindow (s : State) : State :=
  match s.window with
  | .recallWindow =>
    { s with window := .serviceWindow, windowTimer := some (s.inSeconds s.table.site.serviceLength) }.phaseNotice
  | .serviceWindow =>
    { s with window := .recallWindow, windowTimer := some (s.inSeconds s.table.site.recallLength) }.phaseNotice
  | .noWindow => { s with windowTimer := none }

/-- WINDOW_TIMER_EXPIRY (R78). -/
def execWindowTimerExpiry (s : State) : Result := onTimer s.windowTimer State.turnWindow s

/-! ### The pacer (R106, R107) -/

/-- The end of the pacer's state timer, in a state. -/
def State.pacerEnds (s : State) (p : PacerState) : Option Nat := if s.pacer = p then s.pacerTimer else none

/-- SETTLE_A_EXPIRY (R106, R107). -/
def execSettleAExpiry (s : State) : Result := onTimer (s.pacerEnds .settleA) State.enterOpenA s

/-- OPEN_A_EXPIRY (R107). -/
def execOpenAExpiry (s : State) : Result := onTimer (s.pacerEnds .openA) State.enterSettleB s

/-- SETTLE_B_EXPIRY (R107). -/
def execSettleBExpiry (s : State) : Result := onTimer (s.pacerEnds .settleB) State.enterOpenB s

/-- OPEN_B_EXPIRY (R107): the end of the cycle. -/
def execOpenBExpiry (s : State) : Result := onTimer (s.pacerEnds .openB) State.endCycle s

/-! ### Runs and dwells (R125, R129, R130, R145) -/

/-- The end of a start timer. -/
def RunState.startEnds : RunState → Option Nat
  | .startedWait t => some t
  | .running _ | .grace _ _ => none

/-- The end of a run timer. -/
def RunState.runEnds : RunState → Option Nat
  | .running t => some t
  | .startedWait _ | .grace _ _ => none

/-- The end of a GRACE timer. -/
def RunState.graceEnds : RunState → Option Nat
  | .grace _ t => some t
  | .startedWait _ | .running _ => none

/-- What a car's run does when a timer of its runs out. -/
def State.withRun (s : State) (n : CarName) (f : Run → State) : State :=
  match s.runOf n with
  | some r => f r
  | none => s

/-- START_TIMER_EXPIRY (R125). -/
def execStartTimerExpiry (n : CarName) (s : State) : Result :=
  onTimer ((s.runOf n).bind fun r => r.state.startEnds) (fun s0 => s0.withRun n (s0.startRunsOut n)) s

/-- RUN_TIMER_EXPIRY (R129). -/
def execRunTimerExpiry (n : CarName) (s : State) : Result :=
  onTimer ((s.runOf n).bind fun r => r.state.runEnds) (fun s0 => s0.withRun n (s0.runRunsOut n)) s

/-- The GRACE of a car runs out (R130). -/
def State.graceEnds (s : State) (n : CarName) (r : Run) : State :=
  match r.state with
  | .grace cause _ => s.graceRunsOut n r cause
  | .startedWait _ | .running _ => s

/-- GRACE_TIMER_EXPIRY (R130). -/
def execGraceTimerExpiry (n : CarName) (s : State) : Result :=
  onTimer ((s.runOf n).bind fun r => r.state.graceEnds) (fun s0 => s0.withRun n (s0.graceEnds n)) s

/-- A dwell ends: the car is PARKED (R145). -/
def State.dwellEnds (s : State) (n : CarName) : State := (s.modCar n fun c => { c with dwell := none }).park n

/-- DWELL_TIMER_EXPIRY (R145). -/
def execDwellTimerExpiry (n : CarName) (s : State) : Result := onTimer ((s.car n).bind Car.dwell) (fun s0 => s0.dwellEnds n) s

end Sys2Proof.Machine
end

