-- ==== Sys2Proof/Machine/Dispatch.lean ====
section
/-! DEFINITION. The commands of spec/opcode_table.json, each with its meaning. -/

namespace Sys2Proof.Machine

def exec (i : Instr) (s : State) : Host.Outcome State Fault Refusal :=
  match i with
  | .deviceReset => Sys2Proof.Machine.execDeviceReset s
  | .status g r => Sys2Proof.Machine.execStatus g r s
  | .request g car dest => Sys2Proof.Machine.execRequest g car dest s
  | .withdraw g car => Sys2Proof.Machine.execWithdraw g car s
  | .started g car => Sys2Proof.Machine.execStarted g car s
  | .arrived g car landing => Sys2Proof.Machine.execArrived g car landing s
  | .halted g car landing cause => Sys2Proof.Machine.execHalted g car landing cause s
  | .source state kind => Sys2Proof.Machine.execSource state kind s
  | .capacity offered absorb => Sys2Proof.Machine.execCapacity offered absorb s
  | .profile p => Sys2Proof.Machine.execProfile p s
  | .select group selection => Sys2Proof.Machine.execSelect group selection s
  | .block group landing => Sys2Proof.Machine.execBlock group landing s
  | .unblock group landing => Sys2Proof.Machine.execUnblock group landing s
  | .restart number => Sys2Proof.Machine.execRestart number s
  | .retry car => Sys2Proof.Machine.execRetry car s
  | .tableWrite sectionNo values => Sys2Proof.Machine.execTableWrite sectionNo values s
  | .tableCommit value => Sys2Proof.Machine.execTableCommit value s
  | .tableRead sectionNo from_ => Sys2Proof.Machine.execTableRead sectionNo from_ s
  | .droppedFrame port bytes => Sys2Proof.Machine.execDroppedFrame port bytes s
  | .silenceTimerExpiry l => Sys2Proof.Machine.execSilenceTimerExpiry l s
  | .strainAsserted => Sys2Proof.Machine.execStrainAsserted s
  | .strainReleased => Sys2Proof.Machine.execStrainReleased s
  | .tripAsserted => Sys2Proof.Machine.execTripAsserted s
  | .tripReleased => Sys2Proof.Machine.execTripReleased s
  | .filterTimerExpiry => Sys2Proof.Machine.execFilterTimerExpiry s
  | .blankingTimerExpiry => Sys2Proof.Machine.execBlankingTimerExpiry s
  | .standbySettleExpiry => Sys2Proof.Machine.execStandbySettleExpiry s
  | .collectionTimerExpiry => Sys2Proof.Machine.execCollectionTimerExpiry s
  | .preTransferTimerExpiry => Sys2Proof.Machine.execPreTransferTimerExpiry s
  | .clear => Sys2Proof.Machine.execClear s
  | .accountTick => Sys2Proof.Machine.execAccountTick s
  | .windowTimerExpiry => Sys2Proof.Machine.execWindowTimerExpiry s
  | .settleAExpiry => Sys2Proof.Machine.execSettleAExpiry s
  | .openAExpiry => Sys2Proof.Machine.execOpenAExpiry s
  | .settleBExpiry => Sys2Proof.Machine.execSettleBExpiry s
  | .openBExpiry => Sys2Proof.Machine.execOpenBExpiry s
  | .admission => Sys2Proof.Machine.execAdmission s
  | .grant => Sys2Proof.Machine.execGrant s
  | .startTimerExpiry n => Sys2Proof.Machine.execStartTimerExpiry n s
  | .runTimerExpiry n => Sys2Proof.Machine.execRunTimerExpiry n s
  | .graceTimerExpiry n => Sys2Proof.Machine.execGraceTimerExpiry n s
  | .dwellTimerExpiry n => Sys2Proof.Machine.execDwellTimerExpiry n s

end Sys2Proof.Machine
end

