-- ==== Sys2Proof/Machine/Step.lean ====
section
/-! DEFINITION. The step: the command at the front of the queue, or, on an empty queue, the decision that is due, or else one unit of time. -/

namespace Sys2Proof.Machine

/-- One step: the command at the front of the queue is taken with the queue's rest. Where none waits, an admission attempt or a
selection that is due is made before any time passes (R88, R108, assumption 2). -/
def step (s : State) : Host.Outcome State Fault Refusal :=
  match s.pending with
  | [] =>
    match s.decisionDue with
    | some i => exec i s
    | none => .next s.idle
  | c :: rest => exec c { s with pending := rest }

/-- The state with the command that a word of the table spells at the front of the queue; unchanged where it spells none. -/
def State.withFetchWord (s : State) (nbits w : Nat) : State :=
  match decodeTableWord nbits w with
  | some c => { s with pending := c :: s.pending }
  | none => s

end Sys2Proof.Machine
end

