-- ==== Sys2Proof/Safety.lean ====
section
/-! DEFINITION. What counts as a safe state, and the words in which frames are stated: the control state, the reported data and the held
data of a car, and the invariants that every step keeps. -/

namespace Sys2Proof.Machine

/-! ### Parts of the state, for frames -/

/-- The control state: all of State but the car records, the figures, the episode mark, the accounts, the request lists with their mark,
the start queue with its slot, and the outbox. -/
structure Control where
  phase : Phase
  handshake : Option Handshake
  preTimer : Option Nat
  takeover : Option Takeover
  offered : Nat
  absorb : Nat
  clamp : Bool
  blHeld : Bool
  groupOrder : List GroupNo
  window : Window
  windowTimer : Option Nat
  tickTimer : Option Nat
  pacer : PacerState
  pacerTimer : Option Nat
  admitted : Bool
  profile : Profile
  staged : Option Profile
  filterTimer : Option Nat
  blankTimer : Option Nat
  filtered : Bool
  trip : Bool
  strainLine : Bool
  tripLine : Bool
  selection : Vector Selection 6
  blocked : Vector (List Landing) 6
  groupLinks : Vector Link 6
  powerLink : Link
  panelLink : Link
  stored : Option StoredTable
  table : Image
  fallback : Option TableFailure
  pendingImage : Image
  written : Option Nat
  now : Nat
  grants : Nat
  pending : List Instr
  deriving DecidableEq, Repr

/-- The control state of a state. -/
def State.control (s : State) : Control :=
  { phase := s.phase, handshake := s.handshake, preTimer := s.preTimer, takeover := s.takeover, offered := s.offered,
    absorb := s.absorb, clamp := s.clamp, blHeld := s.blHeld, groupOrder := s.groupOrder, window := s.window,
    windowTimer := s.windowTimer, tickTimer := s.tickTimer, pacer := s.pacer, pacerTimer := s.pacerTimer,
    admitted := s.admitted, profile := s.profile, staged := s.staged, filterTimer := s.filterTimer, blankTimer := s.blankTimer,
    filtered := s.filtered, trip := s.trip, strainLine := s.strainLine, tripLine := s.tripLine, selection := s.selection,
    blocked := s.blocked, groupLinks := s.groupLinks, powerLink := s.powerLink, panelLink := s.panelLink, stored := s.stored,
    table := s.table, fallback := s.fallback, pendingImage := s.pendingImage, written := s.written, now := s.now,
    grants := s.grants, pending := s.pending }

/-- The control state but for what the end of recall changes: phase, window, window timer (R146). -/
def Control.lasting (c : Control) : Control := { c with phase := .startup, window := .noWindow, windowTimer := none }

/-- The three fields that the end of recall changes. -/
def State.stage (s : State) : Phase × Window × Option Nat := (s.phase, s.window, s.windowTimer)

/-- What reports and captures write into a car's record, and the plans and run actions leave alone. -/
structure Body where
  position : Option Landing
  between : Bool
  door : Door
  load : Option Nat
  moving : Bool
  direction : Direction
  mode : BitVec 4
  occupied : Bool
  fire : Bool
  fault : Bool
  faultCode : Byte
  powered : Bool
  image : Option Context
  saved : Option Context
  reported : Bool
  deriving DecidableEq, Repr

/-- The reported data of a car. -/
def Car.body (c : Car) : Body :=
  { between := c.between, door := c.door, load := c.load, moving := c.moving, direction := c.direction, mode := c.mode,
    occupied := c.occupied, fire := c.fire, fault := c.fault, faultCode := c.faultCode, powered := c.powered,
    position := c.position, image := c.image, saved := c.saved, reported := c.reported }

/-- The reported data of a car name; none for an absent record. -/
def State.body (s : State) (n : CarName) : Option Body := (s.car n).map Car.body

/-- What the runs and the plans hold of a car. -/
structure Held where
  run : Option Run
  attempts : Nat
  dwell : Option Nat
  unpermitted : Bool
  planDue : Bool
  deriving DecidableEq, Repr

/-- The held data of a car. -/
def Car.held (c : Car) : Held :=
  { run := c.run, attempts := c.attempts, dwell := c.dwell, unpermitted := c.unpermitted, planDue := c.planDue }

/-- The state without what the last step sent, and without whether a selection or an admission attempt is due. -/
def State.silent (s : State) : State := { s with outbox := [], selectionDue := false, admissionDue := false }

/-- Whether a message is LOAD (R63). -/
def OutMsg.isLoad : OutMsg → Bool
  | .load _ _ _ _ => true
  | .start _ _ _ _ | .order _ _ _ | .refuse _ _ | .restore _ _ | .phase _ _ | .query | .clear _ _ _ | .car _ | .alert _ | .refused _ _
  | .tableDone _ | .tableRefused _ _ _ | .tableData _ _ | .tableCommitted => false

/-- The entries of a car in its group's request list (R82). -/
def State.entriesOf (s : State) (n : CarName) : List Entry := (s.requests[groupOf n]).filter fun e => e.car = n

/-- The waiting permits of a car (R37). -/
def State.waitsOf (s : State) (n : CarName) : List Waiting := s.waiting.filter fun w => w.car = n

/-- A car that holds nothing: no admitted permit, no waiting one. -/
def State.HoldsNoPermit (s : State) (n : CarName) : Prop := s.runOf n = none ∧ s.waitsOf n = []

/-! ### Words for the statements on selection and shedding, from the rules and not from the definitions that act -/

/-- A candidate: an entry of a list whose group link is UP (R89). -/
def State.candidate (s : State) (e : Entry) : Bool :=
  (s.groupLinks[groupOf e.car]).up && (s.requests[groupOf e.car]).contains e

/-- What of figures a total of one kind leaves no room for: MOTOR, the committed or the peak check fails with the totals given; REGEN, the
absorb check does (R61, R95). -/
def State.lacks (s : State) (f : Figures) (ml rl : Nat) : Kind → Bool
  | .motor => (f.kind = .motor && s.usable < s.bl + ml + f.demand) || s.peak < s.bl + ml + f.start
  | .regen => f.kind = .regen && s.absorbRoom < rl + f.demand

/-- An entry with figures whose step check passes is eligible where it lacks nothing (R61, R89). -/
def State.mayGrant (s : State) (e : Entry) : Bool :=
  (s.figures e).any fun f => f.start ≤ s.stepMax && !s.lacks f s.ml s.rl .motor && !s.lacks f s.ml s.rl .regen

/-- It is held by its checks where it lacks something (R89). -/
def State.heldByChecks (s : State) (e : Entry) : Bool :=
  (s.figures e).any fun f => f.start ≤ s.stepMax && (s.lacks f s.ml s.rl .motor || s.lacks f s.ml s.rl .regen)

/-- The keys of the class ranking, in their order, as numbers; the smaller list comes first (R89). -/
def State.rankKeys (s : State) (e : Entry) : List Nat :=
  let g := groupOf e.car
  [if (s.table.groups[g]).limit < s.accounts[g] then 1 else 0, if (s.table.groups[g]).high then 0 else 1, s.groupOrder.idxOf g,
   if e.cls = .recall && !e.trapped then 1 else 0, e.arrival, (s.requests[g]).idxOf e]

/-- The keys of the order of FIRE candidates (R90). -/
def State.fireKeys (s : State) (e : Entry) : List Nat :=
  [e.arrival, s.groupOrder.idxOf (groupOf e.car), (s.requests[groupOf e.car]).idxOf e]

/-- The preferred kind (R91). -/
def State.preferredKind (s : State) : RunClass :=
  if s.phase = .service ∧ s.window = .serviceWindow ∧ s.serviceAccount ≤ s.table.site.svcLimit then .service else .recall

/-- The conditions under which the Selector makes a selection (R88). -/
def State.MaySelect (s : State) : Prop :=
  (s.phase = .recall ∨ s.phase = .service) ∧
  (s.pacer = .settleA ∨ s.pacer = .openA ∨ s.pacer = .settleB ∨ s.pacer = .openB) ∧ s.queue.length < 4 ∧ s.episode = .closed

/-- The conditions of a selection, in a state that is not over-committed (R88). -/
def State.selects (s : State) : Prop := s.MaySelect ∧ s.overCommitted = false

/-- What the run of a GRANT goes on from: its first selection has left t of s, and where it granted, 63 more may follow (R88, assumption
2). -/
def State.goesOn (s t : State) : State := if t.grants = s.grants then t else t.selections 63

/-- What of a car's record the Car Table passes to the Selector (R24, R88). -/
def State.told (s : State) (n : CarName) : Option (Option Landing × Bool × Door × Bool × Bool × Option Nat) :=
  (s.car n).map fun c => (c.position, c.between, c.door, c.occupied, c.fire, c.load)

/-- What the events of R88 are seen by from s to t: an entry, a permit that has left, a figure or the profile, the end of an episode, the
pacer's state, an account or the window, a group link, a car's record. -/
def State.Stirred (s t : State) : Prop :=
  t.requests ≠ s.requests ∨ (∃ w ∈ s.waiting, w ∉ t.waiting) ∨
  (t.usable, t.absorbRoom, t.stepMax, t.peak, t.bl, t.ml, t.rl) ≠ (s.usable, s.absorbRoom, s.stepMax, s.peak, s.bl, s.ml, s.rl) ∨
  s.staged.isSome = true ∧ t.staged = none ∨ s.episode ≠ .closed ∨ t.pacer ≠ s.pacer ∨ t.accounts ≠ s.accounts ∨
  t.serviceAccount ≠ s.serviceAccount ∨ t.window ≠ s.window ∨ (∃ g : GroupNo, (t.groupLinks[g]).up ≠ (s.groupLinks[g]).up) ∨
  ∃ n, t.told n ≠ s.told n

/-- The pacer attempts admission: an OPEN state with the admitted mark clear (R108). -/
def State.MayAdmit (s : State) : Prop := (s.pacer = .openA ∨ s.pacer = .openB) ∧ s.admitted = false

/-- What the events of R108 are seen by: the OPEN state entered, the permits of the queue, E, STEP_MAX, the peak limit, BL, ML and RL. -/
def State.starts (s : State) : PacerState × List Waiting × Nat × Nat × Nat × Nat × Nat × Nat :=
  (s.pacer, s.queue, s.usable, s.stepMax, s.peak, s.bl, s.ml, s.rl)

/-- The CLEAR condition under a recorded kind, by the list of R152: no car holds an admitted permit, shows the moving flag or is under an
unpermitted-motion reservation; under CLOSED the filtered strain and the trip are clear. -/
def State.clearHolds (s : State) (kind : TransKind) : Bool :=
  ((List.finRange 48).all fun n => (s.car n).all fun c => c.run.isNone && !c.moving && !c.unpermitted) &&
    (decide (kind = .openTransition) || !s.filtered && !s.trip)

/-- u after the evaluation of the CLEAR condition: in PRE_TRANSFER, where none was sent in the stay, the power link is UP and the condition
holds, CLEAR counts as sent and the pre-transfer timer is stopped (R152). -/
def State.afterClear (u : State) : State :=
  match u.handshake with
  | some h =>
    if u.phase = .preTransfer ∧ h.clearSent = false ∧ u.powerLink.up = true ∧ u.clearHolds h.kind = true then
      { u with handshake := some { h with clearSent := true }, preTimer := none }
    else u
  | none => u

/-- The CLEAR that an event from s to t sends on the power link: one where CLEAR counts as sent in t and did not in s (R152). -/
def State.clearSending (s t : State) : List (Port × OutMsg) :=
  match t.handshake with
  | some h => if h.clearSent && !s.handshake.any (fun x => x.clearSent) then [(.link .power, .clear false h.kind 0)] else []
  | none => []

/-- The handshake state stays, or the event has made the CLEAR condition hold and has sent CLEAR (R152, R154). -/
def State.KeepsHandshake (s t : State) : Prop :=
  t.handshake = s.handshake ∧ t.preTimer = s.preTimer ∨
  ∃ h, s.phase = .preTransfer ∧ s.handshake = some h ∧ h.clearSent = false ∧ s.powerLink.up = true ∧ t.clearHolds h.kind = true ∧
    t.handshake = some { h with clearSent := true } ∧ t.preTimer = none ∧ (.link .power, .clear false h.kind 0) ∈ t.outbox

/-- A kind has a candidate (R91). -/
def State.someCandidate (s : State) (k : RunClass) : Bool :=
  (List.finRange 6).any fun g => (s.requests[g]).any fun e => s.candidate e && e.cls = k

/-- The leading kind: the preferred kind if it has any candidate, and the other kind otherwise (R91). -/
def State.leadingKind (s : State) : RunClass :=
  if s.someCandidate s.preferredKind then s.preferredKind else if s.preferredKind = .recall then .service else .recall

/-- Pre-emption finds nothing to do: no SERVICE permit stands, or no candidate that it could serve is held by its checks (R95, R96). -/
def State.NothingToPreempt (s : State) : Prop :=
  ((∀ w ∈ s.waiting, w.permit.cls ≠ .service) ∧ ∀ n r, s.runOf n = some r → r.permit.cls ≠ .service) ∨
  (∀ e, s.candidate e = true → e.cls = .fire → s.heldByChecks e = false) ∧
    (s.table.site.preemption = .off ∨ s.window ≠ .recallWindow ∨
      ∀ e, s.candidate e = true → e.cls = .recall → s.heldByChecks e = false)

/-- The target of a group's service set (R147). -/
def State.setTarget (s : State) (g : GroupNo) : Nat :=
  match s.selection[g] with
  | .auto => (s.table.groups[g]).serviceCount
  | .car _ => 1
  | .nobody => 0

/-- The candidates of a group, in their order (R147). -/
def State.setCandidates (s : State) (g : GroupNo) : List Nat :=
  match s.selection[g] with
  | .auto => (s.table.groups[g]).releaseOrder
  | .car c => [c.val]
  | .nobody => []

/-- How many members count toward the target: the ORDINARY and the POWERING ones (R147). -/
def State.setCount (s : State) (g : GroupNo) : Nat :=
  ((List.finRange 8).filter fun c => (s.car (carOf g c)).any fun x => x.member = some .ordinary || x.member = some .powering).length

/-- The sum of a figure over the waiting permits that satisfy a test. -/
def State.sumWaiting (s : State) (p : Waiting → Bool) (f : Permit → Nat) : Nat :=
  ((s.waiting.filter p).map fun w => f w.permit).sum

/-- The permit of a SERVICE run in STARTED-WAIT or RUNNING whose car has no CURTAIL or ABANDON pending (R68, R95, R117). -/
def Car.servicePermit (c : Car) : Option Permit :=
  match c.run with
  | some r =>
    if r.permit.cls = .service && r.state.inFlight && c.pending.all (fun x => decide (x.kind = .complete)) then some r.permit else none
  | none => none

/-- The live permit of a car (R37). -/
def State.permitOf (s : State) (n : CarName) : Option Permit :=
  match s.runOf n with
  | some r => some r.permit
  | none => (s.waitingOf n).map Waiting.permit

/-- The permits are numbered in the order of their grants, each with a number of its own (R66). -/
def State.Numbered (s : State) : Prop :=
  ∀ n p, s.permitOf n = some p → p.serial < s.grants ∧ ∀ m q, s.permitOf m = some q → q.serial = p.serial → m = n

/-! ### Words for the end of recall, from the list of R146 -/

/-- A car that does not hold the recall open: OUT, or in step PARKED, SHUT or GIVEN_UP (R146). -/
def Car.meetsRecall (c : Car) : Prop := c.motion.isOut = true ∨ c.step = .parked ∨ c.step = .shut ∨ c.step = .givenUp

/-- The condition of R146: no configured car holds the recall open. -/
def State.RecallMet (s : State) : Prop := ∀ n c, s.car n = some c → c.meetsRecall

/-- What the event that completes the recall leaves: no configured car holds it open, but for a PARKED and still car that the same event has
then released into its service set, with RELEASE where its link is UP (R19, R146, R148). -/
def State.RecallEnds (t : State) : Prop :=
  ∀ n c, t.car n = some c → c.meetsRecall ∨
    c.step = .service ∧ c.motion = .still ∧ c.member.isSome = true ∧ c.order = some .release ∧
      ((t.groupLinks[groupOf n]).up = true → (.link (.group (groupOf n)), .order (numberOf n) .release 0) ∈ t.outbox)

/-- What an event from s that leaves the recall open leaves: some configured car holds it open, and not for a release for fire of that
event, which finds the car PARKED as the recall is examined (R146, R148, assumption 6). -/
def State.RecallStaysOpen (s t : State) : Prop :=
  ∃ n c, t.car n = some c ∧ ¬ c.meetsRecall ∧ (c.step = .service → (s.car n).any (fun x => x.step = .service) = true)

/-! ### Words for the plans, from the table of R137 -/

/-- The landing at which a car passes the rest test; none where it is stranded (R25). -/
def Car.place (c : Car) : Option Landing := if c.between then none else c.position

/-- The trapped flag that a RECALL entry for the car has (R83). -/
def Car.trappedNow (c : Car) : Bool := c.occupied && !decide (c.door = .opened)

/-- A car that is STILL or STRANDED, as the rest test has it, and under no unpermitted-motion reservation (R25, R134). -/
def Car.AtRest (c : Car) : Prop := c.motion = (if c.place.isSome = true then .still else .stranded) ∧ c.unpermitted = false

/-- An order has gone out to a car, where its group link is UP (R34). -/
def State.Told (t : State) (n : CarName) (o : OrderKind) (parameter : Nat) : Prop :=
  (t.groupLinks[groupOf n]).up = true → (.link (.group (groupOf n)), .order (numberOf n) o parameter) ∈ t.outbox

/-- A car that is RECALL_DUE has been told STAY (R137). -/
def State.StaysIfDue (t : State) (n : CarName) : Prop := (t.car n).any (fun y => y.step = .recallDue) = true → t.Told n .stay 0

/-- What an event from s to t at a time does to a car that is planned on its way to recall: stranded, it is RECALL_DUE with a locate entry;
at its recall landing it dwells, afresh; at another landing it is RECALL_DUE with a recall entry; and where it has no recall landing it is
parked in place (R137, R138, R142, R145). -/
def State.SentToRecall (s t : State) (n : CarName) (place : Option Landing) (trapped : Bool) (time : Nat) : Prop :=
  ∃ y, t.car n = some y ∧
    match place with
    | none => y.step = .recallDue ∧ y.motion = .requested ∧
        t.entriesOf n = [{ car := n, cls := .recall, destination := none, trapped := trapped, arrival := time / 2 }]
    | some p =>
      match s.recallLanding (groupOf n) p with
      | some d =>
        if d = p then
          y.step = .dwell ∧ y.motion = .still ∧ t.entriesOf n = [] ∧
            y.dwell = some (time + (s.table.groups[groupOf n]).dwellTime * 20) ∧
            t.Told n .openDwell ((s.table.groups[groupOf n]).dwellTime * 10)
        else
          y.step = .recallDue ∧ y.motion = .requested ∧
            t.entriesOf n = [{ car := n, cls := .recall, destination := some d, trapped := trapped, arrival := time / 2 }]
      | none =>
        y.motion = .still ∧ y.dwell = none ∧ t.entriesOf n = [] ∧ t.Told n .park (s.table.groups[groupOf n]).parkDoors.code ∧
          (t.panelLink.up = true → ∃ first second, (.link .panel, .alert (.noRecallLanding n p first second)) ∈ t.outbox ∧
            first ∈ s.blocked[groupOf n] ∧ second ∈ s.blocked[groupOf n])

/-- The same in PRE_TRANSFER, where an entry waits for the return: the car is RECALL_DUE at rest, without an entry, and is planned then
(R143). -/
def State.SentInPreTransfer (s t : State) (n : CarName) (place : Option Landing) (trapped : Bool) (time : Nat) : Prop :=
  if (∃ p, place = some p ∧ (s.recallLanding (groupOf n) p = some p ∨ s.recallLanding (groupOf n) p = none)) then
    s.SentToRecall t n place trapped time
  else t.entriesOf n = [] ∧ (t.car n).any (fun y =>
    y.step = .recallDue ∧ y.planDue = true ∧ y.motion = if place.isSome = true then .still else .stranded) = true

/-- The table of R137 for a car that an event from s to t plans from its record and its step, with the effects below the table. -/
def State.Planned (s t : State) (n : CarName) (c : Car) (time : Nat) : Prop :=
  match c.step with
  | .awaiting | .recallDue => s.SentToRecall t n c.place c.trappedNow time
  | .recalling | .dwell => s.SentToRecall t n c.place c.trappedNow time ∧ t.StaysIfDue n
  | .parked | .service =>
    match c.place with
    | none => s.SentToRecall t n none c.trappedNow time ∧ t.Told n .stay 0
    | some _ => t.entriesOf n = [] ∧ (t.car n).any (fun y => y.motion = .still) = true ∧
        t.Told n .park (s.table.groups[groupOf n]).parkDoors.code
  | .shut | .givenUp | .normal =>
    t.entriesOf n = s.entriesOf n ∧ (t.car n).any (fun y => y.step = c.step ∧ y.motion = c.motion) = true

/-- A car parked in place, in no service set, which now has a recall landing: it is planned from RECALL_DUE in place of its planning as a
PARKED car (R139). -/
def State.FreedFromPlace (s : State) (n : CarName) (c : Car) : Prop :=
  c.noLanding = true ∧ c.step = .parked ∧ c.member = none ∧ ∃ p d, c.position = some p ∧ s.recallLanding (groupOf n) p = some d

/-! ### Words for the site table, from section 12.6 -/

/-- The eight places of a release order: car numbers, then 255 in every place after the last (section 12.6). -/
def ReleasePlaces (l : List Byte) : Prop := ∃ cars rest, l = cars ++ rest ∧ 255#8 ∉ cars ∧ ∀ b ∈ rest, b = 255#8

/-- The values are an encoding of a section: they fill its payload, and each byte that codes one of a list of values codes one (R163,
section 12.6; which bytes these are is assumption 10). -/
def SectionName.Encodes (v : List Byte) : SectionName → Prop
  | .site => v.length = 30 ∧ (v.getD 12 0#8).toNat ≤ 2 ∧ (v.getD 13 0#8).toNat ≤ 1 ∧ (v.getD 14 0#8).toNat ≤ 3 ∧ (v.getD 23 0#8).toNat ≤ 1
  | .group _ => v.length = 43 ∧ (v.getD 0 0#8).toNat ≤ 1 ∧ (v.getD 23 0#8).toNat ≤ 1 ∧ (v.getD 24 0#8).toNat ≤ 1 ∧
      ReleasePlaces ((v.drop 26).take 8)
  | .car _ => v.length = 8 ∧ (v.getD 0 0#8).toNat ≤ 1

/-! ### What an event leaves alone -/

/-- A car that is neither PARKED nor SHUT: the end of an event leaves its course alone. -/
def State.Settled (s : State) (n : CarName) : Prop := ∀ c, s.car n = some c → c.step ≠ .parked ∧ c.step ≠ .shut

/-- A car without a run and without a waiting permit: the end of an event leaves its motion and its pending record alone. -/
def State.Idle (s : State) (n : CarName) : Prop := s.runOf n = none ∧ ∀ w ∈ s.waiting, w.car ≠ n

/-- A car none of whose waiting permits is of class SERVICE: shedding cancels none of them. -/
def State.Firm (s : State) (n : CarName) : Prop := ∀ w ∈ s.waiting, w.car = n → w.permit.cls ≠ .service

/-- The control state after a good frame on a link that is UP: its silence timer starts again with 5.0 s on the power link and 3.0 s on
the others (R159). -/
def Control.heard (c : Control) : LinkId → Control
  | .group g => { c with groupLinks := c.groupLinks.set g ⟨true, some (c.now + 60)⟩ }
  | .power => { c with powerLink := ⟨true, some (c.now + 100)⟩ }
  | .panel => { c with panelLink := ⟨true, some (c.now + 60)⟩ }

/-- t differs from s, but for what was sent, the figures, the episode mark and the control state, in what the event gave one car (or no
car) and in what the end of an event may do to the others: end the recall (R146), shut, park, power up or release cars that are PARKED or
SHUT (R148, R150), and, where the supply is over-committed, cancel waiting SERVICE permits, curtail runs and shut PARKED cars (R65). -/
structure State.Spares (s t : State) (who : Option CarName) : Prop where
  stage : t.stage = s.stage ∨
    s.phase = .recall ∧ t.stage = (.service, .recallWindow, some (t.now + t.table.site.recallLength * 20))
  body : ∀ n, who ≠ some n → t.body n = s.body n
  held : ∀ n, who ≠ some n → (t.car n).map Car.held = (s.car n).map Car.held
  calm : ∀ n, who ≠ some n → s.Settled n → s.Idle n → t.car n = s.car n
  entries : ∀ n, who ≠ some n → t.entriesOf n = s.entriesOf n
  mark : s.mark = none ∨ s.mark ≠ who → t.mark = s.mark
  waits : ∀ w ∈ t.waiting, who ≠ some w.car → w ∈ s.waiting
  firm : ∀ n, who ≠ some n → s.Firm n → ∀ w ∈ s.waiting, w.car = n → w ∈ t.waiting
  accounts : ∀ g : GroupNo, t.accounts[g] ≤ s.accounts[g]
  service : t.serviceAccount ≤ s.serviceAccount

/-! ### Invariants -/

/-- The figures agree with what they are formed from (R56, R58, R59). -/
def State.Fresh (s : State) : Prop := s.refresh = s

/-- The phases in which permits and entries can stand (R1, R6, R10, R11, R14). -/
def Phase.serves : Phase → Bool
  | .recall | .service | .preTransfer => true
  | .startup | .normal | .outage | .takeover => false

/-- The phases in which the part is idle (R1, R6, R12). -/
def Phase.idle : Phase → Bool
  | .startup | .normal | .outage => true
  | .takeover | .recall | .service | .preTransfer => false

/-- The pacer states that a phase admits (R98, R103, R104, R105). -/
def Phase.admitsPacer : Phase → PacerState → Bool
  | .startup, p | .normal, p | .outage, p | .preTransfer, p => p = .halted
  | .takeover, p => p = .halted || p = .hold || p = .waitRestart
  | .recall, p | .service, p => p ≠ .halted

/-- The control state holds exactly what its phase and its pacer state call for. -/
structure State.Shaped (s : State) : Prop where
  /-- Remembered phase and clearance mark are present only in PRE_TRANSFER (R1). -/
  handshake : s.handshake.isSome ↔ s.phase = .preTransfer
  /-- The pre-transfer timer runs until CLEAR is sent or it has expired (R1, R152, R153). -/
  preTimer : s.preTimer.isSome ↔ ∃ h, s.handshake = some h ∧ h.clearSent = false ∧ h.expired = false
  /-- While CLEAR is not sent and the power link is UP, the CLEAR condition does not hold: each event that could make it hold has evaluated
  it (R152, R154). -/
  clear : ∀ h, s.handshake = some h → h.clearSent = false → s.powerLink.up = true → s.clearHolds h.kind = false
  /-- The takeover stage is present only in TAKEOVER (R1). -/
  takeover : s.takeover.isSome ↔ s.phase = .takeover
  /-- A window is in force, and timed, only in SERVICE (R4, R77). -/
  window : s.window ≠ .noWindow ↔ s.phase = .service
  windowTimer : s.windowTimer.isSome ↔ s.phase = .service
  /-- The tick timer runs in TAKEOVER, RECALL, SERVICE and PRE_TRANSFER (R71). -/
  tickTimer : s.tickTimer.isSome ↔ s.phase.idle = false
  /-- The pacer's state is one that the phase admits (R104, R105). -/
  pacer : s.phase.admitsPacer s.pacer = true
  /-- HALTED, HOLD and WAIT_RESTART are untimed; of the cycle only OPEN_A under UNIFIED is (R106, R107). -/
  pacerTimer : s.pacerTimer.isSome ↔ s.pacer.cycling = true ∧ ¬ (s.pacer = .openA ∧ s.profile.mode = .unified)
  /-- SETTLE_B and OPEN_B are states of SPLIT mode (R107). -/
  split : s.pacer = .settleB ∨ s.pacer = .openB → s.profile.mode = .split
  /-- A profile stays staged only while the cycle runs (R112). -/
  staged : s.staged.isSome → s.pacer.cycling = true
  /-- BL is held at 0 from entry to STARTUP, NORMAL, OUTAGE or TAKEOVER to the end of the next collection (R11, R12, R14, assumption 8), and
  so in the PRE_TRANSFER that is left for NORMAL or TAKEOVER. -/
  blHeld : s.blHeld = true ↔
    s.phase.idle = true ∨ s.phase = .takeover ∨ ∃ h, s.handshake = some h ∧ (h.remembered = .normal ∨ h.remembered = .takeover)
  /-- The episode mark is open only in a standby phase (R64). -/
  episode : s.standby = false → s.episode = .closed
  /-- An open episode is one of over-commitment (R64). -/
  excess : s.episode ≠ .closed → s.overCommitted = true

/-- Every bounded quantity is within its bounds (R54, R55, R70, R98, R139), and no time of a request lies ahead of the clock (R82). -/
structure State.Bounded (s : State) : Prop where
  queue : s.queue.length ≤ 4
  accounts : ∀ g : GroupNo, s.accounts[g] ≤ 65535
  service : s.serviceAccount ≤ 65535
  offered : s.offered ≤ 4000
  absorb : s.absorb ≤ 4000
  blocked : ∀ g : GroupNo, (s.blocked[g]).length ≤ 8 ∧ (s.blocked[g]).Nodup
  /-- The arrival time of every entry, and of every permit's origin record, is past (R81, R82). -/
  past : (∀ g : GroupNo, ∀ e ∈ s.requests[g], e.arrival ≤ s.tenths) ∧ (∀ w ∈ s.waiting, w.permit.origin ≤ s.tenths) ∧
    ∀ n r, s.runOf n = some r → r.permit.origin ≤ s.tenths

/-- The group order list holds the configured groups, each once (R69, R76), and a configured car is of a configured group (R21, R164). -/
def State.Ordered (s : State) : Prop :=
  s.groupOrder.Nodup ∧ (∀ g, g ∈ s.groupOrder ↔ s.groupConfigured g = true) ∧
  ∀ n, s.configured n = true → s.groupConfigured (groupOf n) = true

/-- Whether a motion state is one of an admitted run (R21, R122). -/
def Motion.supervised : Motion → Bool
  | .starting | .running | .stopping => true
  | .still | .requested | .granted | .stranded | .out _ => false

/-- A RECALL entry or waiting permit belongs to a car in RECALL_DUE, another one to a car of its group (R82, R87, R137). -/
def RecoveryStep.allows (step : RecoveryStep) (cls : RunClass) : Prop :=
  if cls = .recall then step = .recallDue else step.owner = .group

/-- What a car holds agrees with its motion state, its step and the phase (R30, R37, R82, R145, R147). -/
structure State.CarCoherent (s : State) (n : CarName) (c : Car) : Prop where
  /-- A car is REQUESTED exactly while it has an entry, and it has one (R82). -/
  requested : (s.entriesOf n).length = if c.motion = .requested then 1 else 0
  /-- A car is GRANTED exactly while it has a permit in the queue or the slot, and it has one (R37). -/
  granted : (s.waitsOf n).length = if c.motion = .granted then 1 else 0
  /-- A car is STARTING, RUNNING or STOPPING exactly while it has an admitted permit (R37, R122). -/
  running : c.run.isSome ↔ c.motion.supervised = true
  entrySteps : ∀ e ∈ s.entriesOf n, c.step.allows e.cls
  waitSteps : ∀ w ∈ s.waitsOf n, c.step.allows w.permit.cls
  runSteps : ∀ r, c.run = some r →
    if r.permit.cls = .recall then c.step = .recallDue ∨ c.step = .recalling ∨ c.step = .givenUp ∨ c.step = .awaiting
    else c.step.owner = .group
  /-- An OUT car has no pending record, and no place in a service set unless it is being powered up (R30, R148). -/
  out : c.motion.isOut = true → c.pending = none ∧ (c.member = none ∨ c.member = some .powering)
  /-- Members are in step SERVICE, POWERING ones in step SHUT, and sets stand in SERVICE and in its PRE_TRANSFER (R147). -/
  member : ∀ m, c.member = some m → (if m = .powering then c.step = .shut else c.step = .service) ∧
    (s.phase = .service ∨ ∃ h, s.handshake = some h ∧ h.remembered = .service)
  /-- A dwell timer belongs to a car in step DWELL that is not OUT and not running (R145). -/
  dwell : c.dwell.isSome → c.step = .dwell ∧ c.motion.isOut = false ∧ c.run = none ∧ s.phase.serves = true
  /-- A plan that awaits the return from PRE_TRANSFER is of a car that holds nothing (R137, R143). -/
  planDue : c.planDue = true → s.phase = .preTransfer ∧ c.dwell = none ∧ c.run = none ∧ s.entriesOf n = [] ∧
    s.waitsOf n = [] ∧ (c.member = none ∨ c.member = some .powering)
  /-- Outside RECALL, SERVICE and PRE_TRANSFER a car holds nothing (R6, R10, R11, R14). -/
  idle : s.phase.serves = false → c.run = none ∧ c.pending = none ∧ s.entriesOf n = [] ∧ s.waitsOf n = []
  /-- Only a RECALL run is a locate run (R46). -/
  places : (∀ r, c.run = some r → r.permit.destination = none → r.permit.cls = .recall) ∧
    ∀ x, c.pending = some x → x.destination = none → x.cls = .recall

/-- No car holds two of an entry, a waiting permit and an admitted permit, and what each holds agrees with its record (R37, R82). -/
structure State.Coherent (s : State) : Prop where
  cars : ∀ n c, s.car n = some c → s.CarCoherent n c
  absent : ∀ n, s.car n = none → s.entriesOf n = [] ∧ s.waitsOf n = []
  /-- An entry stands in its own group's list, and only a RECALL entry is a locate entry (R46, R82). -/
  listed : ∀ g : GroupNo, ∀ e ∈ s.requests[g], groupOf e.car = g ∧ (e.destination = none → e.cls = .recall)
  waits : ∀ w ∈ s.waiting, w.permit.destination = none → w.permit.cls = .recall
  /-- The entries of a list stand in order of arrival time (R82). -/
  sorted : ∀ g : GroupNo, (s.requests[g]).Pairwise fun a b => a.arrival ≤ b.arrival

end Sys2Proof.Machine

namespace Sys2Proof

open Machine

/-! ### Words for the reports, from R23 and R143 -/

/-- The landing at which a report shows its car at rest; none where it shows the car stranded (R23, R25). -/
def StatusBytes.place (r : StatusBytes) : Option Landing :=
  if h : r.position.toNat < 128 then (if r.flags.getLsbD 0 then none else some ⟨r.position.toNat, h⟩) else none

/-- The trapped flag that a report gives a RECALL entry (R23, R83). -/
def StatusBytes.trapped (r : StatusBytes) : Bool := r.flags.getLsbD 2 && !decide (r.door.toNat = 2)

/-- A report without the moving and the fault flag, of a car with power. -/
def StatusBytes.Rests (r : StatusBytes) : Prop := r.flags.getLsbD 1 = false ∧ r.flags.getLsbD 4 = false ∧ r.flags.getLsbD 5 = true

/-- The report shows a car that has moved: it was reported moving, or between floors, or stood elsewhere (R143). -/
def StatusBytes.Moved (r : StatusBytes) (c : Car) : Prop :=
  c.moving = true ∨ c.between = true ∨ c.position.map Fin.val ≠ if r.position.toNat < 128 then some r.position.toNat else none

end Sys2Proof
end

