-- ==== Sys2Proof/Certificates/Slice0/Obligations.lean ====
section
/-! DEFINITION. The statements of this model for the provers: the step, the invariants, the rules that hold of every command, the frames
on the wire, the figures, and one result statement for each command. -/

section Statements

open Sys2Proof Sys2Proof.Machine

/-! ### The step -/

/-- A step runs the command at the front of the queue on the state with the queue's rest; on an empty queue it makes the admission
attempt or the selections that are due, the attempt first, else one unit of time passes and nothing is on the links (the model's choice,
assumptions 1 and 2). Every command answers a next state
in every state, and leaves the queue of waiting commands alone. -/
def Obligations.StepTakesFront : Prop :=
  (∀ (c : Instr) (rest : List Instr) (s : State), step { s with pending := c :: rest } = exec c { s with pending := rest }) ∧
  (∀ s : State, s.pending = [] →
    step s = if s.admissionDue = true then exec .admission s
      else if s.selectionDue = true then exec .grant s else .next { s with now := s.now + 1, outbox := [] }) ∧
  ∀ (i : Instr) (s : State), ∃ t, exec i s = .next t ∧ t.pending = s.pending

/-- An event that can change a selection's outcome makes a selection due, and an earlier one stays due, while R88 has the Selector make one,
and only then (R88; that it is due, and not yet made, is the model's form, assumption 2). An account tick and an accepted REQUEST do so
whatever they change (R85, R88). GRANT makes it: it grants one permit or none, and
one that grants is followed by another at once, until a selection grants nothing; after that none is due (R88). -/
def Obligations.SelectionsFollow : Prop :=
  (∀ (i : Instr) (s t : State), exec i s = .next t →
    ((s.selectionDue = true → s.MaySelect) → t.selectionDue = true → t.MaySelect) ∧
    (i ≠ .grant → t.MaySelect →
      s.Stirred t ∨ (i = .accountTick ∧ s.tickTimer.isSome = true) ∨
        (∃ g b d, i = .request g b d ∧ ∀ why, (Port.link (.group g), OutMsg.refuse b why) ∉ t.outbox) ∨ s.selectionDue = true →
      t.selectionDue = true)) ∧
  (∀ s : State, ∃ t : State, exec .grant s = .next (s.goesOn t) ∧ exec .grant s = .next ({ s with outbox := [] }.selections 64)) ∧
  ∀ (s : State) (n : Nat), s.selections 0 = s ∧
    ((s.selections n).selectionDue = true → (s.selections n).grants = s.grants + n) ∧
    ∃ (t : State) (l : List Waiting), s.selections (n + 1) = (if t.grants = s.grants then t else t.selections n) ∧
      t.grants = s.grants + l.length ∧ l.length ≤ 1 ∧ (∀ w ∈ t.waiting, w ∈ s.waiting ∨ w ∈ l) ∧
      (t.grants = s.grants → t.selectionDue = false)

/-! ### Invariants of every step -/

/-- The figures agree with what they are formed from after every step (R56, R58, R59). -/
def Obligations.FiguresStayFresh : Prop :=
  ∀ s t : State, s.Fresh → step s = .next t → t.Fresh

/-- Every step keeps the agreement of the control state with phase and pacer state (R1, R4, R12, R64, R71, R104 to R107, R112; that BL is
held in every TAKEOVER until step 4 is assumption 8), and keeps it that in PRE_TRANSFER, with the power link UP and CLEAR not sent, the CLEAR
condition does not hold: the event that makes it hold sends CLEAR (R151, R152, R154; within the event, assumption 62). -/
def Obligations.ShapeKept : Prop :=
  ∀ s t : State, s.Shaped → step s = .next t → t.Shaped

/-- Every step keeps the bounded quantities within their bounds and the group order list the list of the configured groups (R54, R55, R70,
R76, R98, R139). -/
def Obligations.BoundsKept : Prop :=
  ∀ s t : State, s.Bounded → s.Ordered → step s = .next t → t.Bounded ∧ t.Ordered

/-- Every step keeps it that no car holds two of an entry, a waiting permit and an admitted permit, and that what a car holds agrees with
its motion state, its step and the phase (R37, R82); and that the permits are numbered in the order of their grants (R66; the number is the
model's own, assumption 35). -/
def Obligations.HoldingsKept : Prop :=
  ∀ s t : State, s.Shaped → s.Coherent → step s = .next t → t.Coherent ∧ (s.Numbered → t.Numbered)

/-- The machine right after reset meets every invariant. -/
def Obligations.ResetMeetsInvariants : Prop :=
  State.reset.Fresh ∧ State.reset.Shaped ∧ State.reset.Bounded ∧ State.reset.Ordered ∧ State.reset.Coherent ∧ State.reset.Numbered

/-! ### Rules over all commands -/

/-- Only GRANT raises an account or makes a permit, and only ADMISSION puts a permit into the field of a car, at most one, taken from the
queue (R70, R93, R108, R122). The permits that GRANT makes bear the numbers of its grants (the number is the model's own, assumption 35);
that one GRANT makes at most 64 of them is the model's choice, which no rule of the spec states (assumption 2). -/
def Obligations.OnlyGrantsAndStartsGrow : Prop :=
  ∀ (i : Instr) (s t : State), exec i s = .next t →
    (i ≠ .grant → (∀ g : GroupNo, t.accounts[g] ≤ s.accounts[g]) ∧ t.serviceAccount ≤ s.serviceAccount ∧
      (∀ w ∈ t.waiting, w ∈ s.waiting) ∧ t.grants = s.grants) ∧
    (i = .grant → t.grants ≤ s.grants + 64 ∧ ∀ w ∈ t.waiting, w ∈ s.waiting ∨ s.grants ≤ w.permit.serial ∧ w.permit.serial < t.grants) ∧
    (∀ n r, t.runOf n = some r → (∃ r0, s.runOf n = some r0 ∧ r0.permit = r.permit) ∨
      i = .admission ∧ (s.pacer = .openA ∨ s.pacer = .openB) ∧ s.admitted = false ∧
        (∃ w ∈ s.queue, w.car = n ∧ w.permit = r.permit) ∧
        ∀ m q, m ≠ n → t.runOf m = some q → ∃ q0, s.runOf m = some q0 ∧ q0.permit = q.permit)

/-- Which commands change the phase: SOURCE, the end of the collection, a reset, and any command in RECALL whose event completes the recall
(R1, R2, R16, R19, R146). The phase is RECALL after an event, where the recall had not been complete before it, only where some configured
car is neither OUT nor in step PARKED, SHUT or GIVEN_UP; and RECALL becomes SERVICE only where every configured car is one of these, but for
cars that the same event has then released (R19, R146, R148; that the recall is examined before the releases of an event is assumption 6). So
RECALL is never kept once the recall is complete. -/
def Obligations.PhaseMoves : Prop :=
  ∀ (i : Instr) (s t : State), exec i s = .next t →
    (t.phase ≠ s.phase →
      i = .deviceReset ∨ (∃ x k, i = .source x k) ∨ (i = .collectionTimerExpiry ∧ s.takeover.isSome) ∨
      (s.phase = .recall ∧ t.phase = .service ∧ t.window = .recallWindow)) ∧
    ((s.phase = .recall → ¬ s.RecallMet) →
      (t.phase = .recall → s.RecallStaysOpen t) ∧ (s.phase = .recall → t.phase = .service → t.RecallEnds))

/-- When E, BL, ML or RL has changed and the power link is UP, LOAD goes out with the four figures as the event leaves them (R63); that it
is the last message of the event, and that GRANT sends one at each of its grants, is the model's choice (assumptions 2 and 3). When a
summarised field of a configured car has changed and the panel link is UP, a CAR summary with the record as the event leaves it goes to the
panel (R39); a reset sends nothing (R1), and a commit sends no summary (the model's choice, assumption 18). -/
def Obligations.ChangesAnnounced : Prop :=
  (∀ (i : Instr) (s t : State), exec i s = .next t → i ≠ .deviceReset → t.powerLink.up = true →
    (t.usable, t.bl, t.ml, t.rl) ≠ (s.usable, s.bl, s.ml, s.rl) →
    (t.outbox.filter fun x => x.2.isLoad).getLast? = some (.link .power, .load t.usable t.bl t.ml t.rl) ∧
    (i ≠ .grant → t.outbox.getLast? = some (.link .power, .load t.usable t.bl t.ml t.rl))) ∧
  ∀ (i : Instr) (s t : State) (n : CarName) (c : Car), exec i s = .next t → i ≠ .deviceReset → (∀ v, i ≠ .tableCommit v) →
    t.panelLink.up = true → t.car n = some c → (s.car n).map (s.summary n) ≠ some (t.summary n c) →
    (Port.link .panel, OutMsg.car (t.summary n c)) ∈ t.outbox

/-- What a car has reported, its capture image and its saved context are changed by STATUS, ARRIVED and HALTED of that car, by SOURCE, by
the STAY step of a takeover, by a commit and by a reset alone (R6, R7, R9, R15, R24, R126, R127). The stored table is changed by an accepted
commit, and by a reset that follows one, whose write it may tear (R164, assumption 55), alone; the table in effect by a commit, a reset, and
under the fallback table a STATUS; the pending image by these (but STATUS) and TABLE_WRITE; panel selections and blocked sets only by
SELECT, BLOCK, UNBLOCK and a reset (R9, R13, R21, R163, R164, R165). -/
def Obligations.RecordsAndSettingsFrame : Prop :=
  (∀ (i : Instr) (s t : State) (n : CarName), exec i s = .next t → t.body n ≠ s.body n →
    i = .deviceReset ∨ (∃ v, i = .tableCommit v) ∨ (∃ x k, i = .source x k) ∨ i = .standbySettleExpiry ∨
    (∃ r, i = .status (groupOf n) r ∧ carNoOf r.car = some (numberOf n)) ∨
    (∃ b l, i = .arrived (groupOf n) b l ∧ carNoOf b = some (numberOf n)) ∨
    (∃ b l k, i = .halted (groupOf n) b l k ∧ carNoOf b = some (numberOf n))) ∧
  ∀ (i : Instr) (s t : State), exec i s = .next t →
    (t.stored ≠ s.stored → i = .tableCommit 0#8 ∧ (s.phase = .startup ∨ s.phase = .normal) ∨ i = .deviceReset ∧ s.written.isSome = true) ∧
    (t.table ≠ s.table → i = .tableCommit 0#8 ∨ i = .deviceReset ∨ s.fallback.isSome ∧ ∃ g r, i = .status g r) ∧
    (t.pendingImage ≠ s.pendingImage → i = .tableCommit 0#8 ∨ i = .deviceReset ∨ ∃ n v, i = .tableWrite n v) ∧
    (t.selection ≠ s.selection → i = .deviceReset ∨ ∃ g x, i = .select g x) ∧
    (t.blocked ≠ s.blocked → i = .deviceReset ∨ (∃ g l, i = .block g l) ∨ ∃ g l, i = .unblock g l)

/-- A group message that names a car, and a RETRY, touch no other car but through the end of their event, and of the control state the
record of their link alone, and the handshake state where a group message makes the CLEAR condition hold and CLEAR goes out (R152, R154)
(R24, R85, R86, R124, R126, R127, R144, R159). A STATUS that configures its car is the exception: it writes the table (R21). The expiry of a
car's start, run, GRACE or dwell timer touches no other car but so, and of the control state the clock and, by a CLEAR, the handshake state
(R125, R129, R130, R145, R152). Commands that set figures, profiles, tables, lines, timers and the pacer, the silence of the power and the
panel link, and a dropped frame touch no car but through the end of their event, and cars that run, which HOLD_SHED curtails (R117). -/
def Obligations.CommandsSpareCars : Prop :=
  (∀ (i : Instr) (s t : State) (g : GroupNo) (b : Byte), exec i s = .next t →
    (∃ r, i = .status g r ∧ b = r.car ∧ (s.fallback = none ∨ ∀ c, carNoOf b = some c → s.configured (carOf g c) = true)) ∨
      (∃ d, i = .request g b d) ∨ i = .withdraw g b ∨ i = .started g b ∨ (∃ l, i = .arrived g b l) ∨ (∃ l k, i = .halted g b l k) →
    s.Spares t ((carNoOf b).map (carOf g)) ∧ s.KeepsHandshake t ∧
      t.control.lasting = { s.control.heard (.group g) with handshake := t.handshake, preTimer := t.preTimer }.lasting) ∧
  (∀ (s t : State) (b : Byte), exec (.retry b) s = .next t →
    s.Spares t (carNameOf b) ∧ t.control.lasting = (s.control.heard .panel).lasting) ∧
  (∀ (i : Instr) (s t : State) (n : CarName), exec i s = .next t →
    i = .startTimerExpiry n ∨ i = .runTimerExpiry n ∨ i = .graceTimerExpiry n ∨ i = .dwellTimerExpiry n →
    s.Spares t (some n) ∧ s.KeepsHandshake t ∧
      t.control.lasting = { s.control with now := t.now, handshake := t.handshake, preTimer := t.preTimer }.lasting) ∧
  ∀ (i : Instr) (s t : State), exec i s = .next t →
    (∃ o a, i = .capacity o a) ∨ (∃ p, i = .profile p) ∨ (∃ k, i = .restart k) ∨ (∃ n v, i = .tableWrite n v) ∨
      (∃ n v, i = .tableRead n v) ∨ (∃ p b, i = .droppedFrame p b) ∨ i = .silenceTimerExpiry .power ∨ i = .silenceTimerExpiry .panel ∨
      i = .strainAsserted ∨ i = .strainReleased ∨ i = .tripReleased ∨ i = .filterTimerExpiry ∨ i = .blankingTimerExpiry ∨
      i = .preTransferTimerExpiry ∨ i = .clear ∨ i = .accountTick ∨ i = .settleAExpiry ∨ i = .openAExpiry ∨ i = .settleBExpiry ∨
      i = .openBExpiry →
    s.Spares t none

/-! ### Frames on the wire -/

/-- Decoding the frame of a well-formed message gives the message back, with every payload byte; what a port decodes from a whole frame is
well formed, and is either the message whose frame these bytes are, or a dropped frame of these bytes (R158, sections 12.3 to 12.6). -/
def Obligations.FramesRoundTrip : Prop :=
  (∀ (i : Instr) (p : Port) (bytes : List Byte), encodeFrame i = some (p, bytes) → i.wellFormed = true → decodeFrame p bytes = some i) ∧
  ∀ (i : Instr) (p : Port) (bytes : List Byte), decodeFrame p bytes = some i →
    i.wellFormed = true ∧ (encodeFrame i = some (p, bytes) ∨ i = .droppedFrame p bytes)

/-- Frames written out byte by byte, with their CRC-16, decode to the messages they stand for (R158, sections 12.3 to 12.6). -/
def Obligations.FrameWords : Prop :=
  decodeFrame (.link (.group 2)) [0xA5#8, 0x02#8, 0x11#8, 0x03#8, 0x0C#8, 0x89#8, 0x24#8] = some (.request 2 3#8 12#8) ∧
  decodeFrame (.link .power) [0xA5#8, 0x02#8, 0x30#8, 0x02#8, 0x00#8, 0xCA#8, 0x6F#8] = some (.source 2#8 0#8) ∧
  decodeFrame (.link .power) [0xA5#8, 0x04#8, 0x31#8, 0x01#8, 0xF4#8, 0x00#8, 0x64#8, 0xCB#8, 0x0A#8] = some (.capacity 500#16 100#16) ∧
  decodeFrame (.link .panel) [0xA5#8, 0x01#8, 0x44#8, 0x2F#8, 0xEF#8, 0x29#8] = some (.retry 47#8) ∧
  decodeFrame .maintenance [0xA5#8, 0x01#8, 0x51#8, 0x00#8, 0xC6#8, 0x22#8] = some (.tableCommit 0#8) ∧
  decodeFrame (.link .panel) [0xA5#8, 0x01#8, 0x44#8, 0x2F#8, 0x00#8, 0x00#8] =
    some (.droppedFrame (.link .panel) [0xA5#8, 0x01#8, 0x44#8, 0x2F#8, 0x00#8, 0x00#8])

/-! ### The Demand Calculator -/

/-- The figures of a locate run (R46). -/
def Obligations.LocateFigures : Prop :=
  ∀ (s : State) (e : Entry) (c : Car) (r : CarSection), s.car e.car = some c → s.table.cars[e.car] = r → e.destination = none →
    ∃ f, s.figures e = some f ∧ f.kind = .motor ∧
      f.demand = (r.m * 30 + 99) / 100 ∧
      f.start = (f.demand * r.k + 99) / 100 ∧
      f.floors = 1 ∧
      f.units = max 1 (min 4095 ((f.demand * 3 + 63) / 64)) ∧
      (r.ranges = true → 1 ≤ f.demand ∧ f.demand ≤ 120) ∧
      (s.permitFor e f).destination = none ∧
      ∀ limit cls, ((OutMsg.start (numberOf e.car) (s.permitFor e f).destination cls limit).payload)[1]? = some 255#8

/-- The figures of a run on the imbalance path that motors: its heavy side rises, or the car is balanced (R48, R49, R50); for ratings within
their ranges the start demand is at least the demand, and that at least 1 (R50). -/
def Obligations.MotoringFigures : Prop :=
  ∀ (s : State) (e : Entry) (c : Car) (r : CarSection) (p d : Landing) (lp : Nat), s.car e.car = some c → s.table.cars[e.car] = r →
    c.position = some p → e.destination = some d → p ≠ d → c.load = some lp →
    r.b < 100 →
    (lp = r.b ∨ (lp > r.b ∧ d > p) ∨ (lp < r.b ∧ d < p)) →
    ∃ f n, s.figures e = some f ∧ f.kind = .motor ∧
      n = min 100 ((((lp - r.b) + (r.b - lp)) * 100 + (99 - r.b)) /
        (100 - r.b)) ∧
      f.demand = (r.m * max n 10 + 99) / 100 ∧
      f.start = (f.demand * r.k + 99) / 100 ∧
      f.floors = (p.val - d.val) + (d.val - p.val) ∧
      f.units = max 1 (min 4095 ((f.demand * (f.floors + 2) + 63) / 64)) ∧
      (r.ranges = true → 1 ≤ f.demand ∧ f.demand ≤ f.start)

/-- The figures of a run of unknown load that is no locate run (R47), with the floors of R43; and those of a run whose heavy side descends:
REGEN where G is at least 1, else the motoring run at the 10 % floor (R49, R51). -/
def Obligations.UnknownAndRegeneratingFigures : Prop :=
  (∀ (s : State) (e : Entry) (c : Car) (r : CarSection) (p d : Landing), s.car e.car = some c → s.table.cars[e.car] = r →
    c.position = some p → e.destination = some d → p ≠ d → c.load = none →
    ∃ f, s.figures e = some f ∧ f.kind = .motor ∧
      f.demand = r.m ∧
      f.start = (r.m * r.k + 99) / 100 ∧
      f.floors = (p.val - d.val) + (d.val - p.val) ∧
      f.units = max 1 (min 4095 ((r.m * (f.floors + 2) + 63) / 64))) ∧
  ∀ (s : State) (e : Entry) (c : Car) (r : CarSection) (p d : Landing) (lp : Nat), s.car e.car = some c → s.table.cars[e.car] = r →
    c.position = some p → e.destination = some d → c.load = some lp → r.b < 100 →
    (lp > r.b ∧ d < p) ∨ (lp < r.b ∧ d > p) →
    ∃ f n g, s.figures e = some f ∧
      n = min 100 ((((lp - r.b) + (r.b - lp)) * 100 + (99 - r.b)) /
        (100 - r.b)) ∧
      g = r.m * n * r.reff / 10000 ∧
      f.floors = (p.val - d.val) + (d.val - p.val) ∧
      f.units = max 1 (min 4095 ((f.demand * (f.floors + 2) + 63) / 64)) ∧
      (1 ≤ g → f.kind = .regen ∧ f.demand = g ∧
        f.start = (r.m * 10 * r.k + 9999) / 10000) ∧
      (g = 0 → f.kind = .motor ∧ f.demand = (r.m * 10 + 99) / 100 ∧
        f.start = (f.demand * r.k + 99) / 100)

/-- The bounds of the figures for ratings within their ranges, and when there are none: for a car whose position is UNKNOWN or the
destination itself (R43, R52, R53). -/
def Obligations.FigureBounds : Prop :=
  (∀ (s : State) (e : Entry) (f : Figures), s.figures e = some f → (s.table.cars[e.car]).ranges = true →
    (f.kind = .motor → 1 ≤ f.demand ∧ f.demand ≤ (s.table.cars[e.car]).m) ∧
    (f.kind = .regen → 1 ≤ f.demand ∧ f.demand ≤ (s.table.cars[e.car]).m * 9 / 10 ∧
      f.start ≤ ((s.table.cars[e.car]).m * 3 + 9) / 10) ∧
    1 ≤ f.start ∧ f.start ≤ 3 * (s.table.cars[e.car]).m ∧ 1 ≤ f.units ∧ f.units ≤ 4095 ∧ 1 ≤ f.floors ∧ f.floors ≤ 127) ∧
  ∀ (s : State) (e : Entry) (c : Car) (d : Landing), s.car e.car = some c → e.destination = some d →
    (s.figures e = none ↔ c.position = none ∨ c.position = some d)

/-! ### Device reset -/

/-- A device reset answers the state in which every block stands at its reset values (R1, R12, R22, R54, R69, R81, R98, R113, R136, R159)
under the table that R165 puts in effect: it keeps the stored table and the levels of the lines, reads both lines once, and sends nothing.
Where it falls during the storage write of a commit, the stored table's check value matches no more (R164); how long a write lasts is a free
value, and the statement holds for each (assumption 55). -/
def Obligations.ResetRestores : Prop :=
  ∀ s : State, ∃ t, exec .deviceReset s = .next t ∧ t.outbox = [] ∧ t.pending = s.pending ∧ t.written = none ∧
    ((∀ w, s.written = some w → Config.tearsWrite (s.now - w) = false) → t.stored = s.stored) ∧
    (∀ w, s.written = some w → Config.tearsWrite (s.now - w) = true →
      t.stored.map StoredTable.image = s.stored.map StoredTable.image ∧ ∀ x, t.stored = some x → crc16 x.image.contents ≠ x.check) ∧
    (∀ x, t.stored = some x → crc16 x.image.contents = x.check → x.image.firstFailure = none →
      t.table = x.image ∧ t.fallback = none) ∧
    ((∀ x, t.stored = some x → crc16 x.image.contents ≠ x.check ∨ x.image.firstFailure ≠ none) →
      t.table = fallbackImage ∧ t.fallback ≠ none) ∧
    t.pendingImage = t.table ∧
    t.phase = .startup ∧ t.handshake = none ∧ t.preTimer = none ∧ t.takeover = none ∧
    (∀ n : CarName, t.car n = if (t.table.cars[n]).configured then some
      { position := none, between := false, door := .unknown, load := none, moving := false, direction := .still, mode := 0#4,
        occupied := false, fire := false, fault := false, faultCode := 0#8, powered := false, image := none, motion := .still,
        step := .normal, attempts := 0, order := none, saved := none, run := none, pending := none, dwell := none,
        noLanding := false, member := none, unpermitted := false, credit := none, reported := false, planDue := false } else none) ∧
    (t.offered, t.absorb, t.usable, t.absorbRoom, t.stepMax, t.peak, t.bl, t.ml, t.rl) = (0, 0, 0, 0, 0, 0, 0, 0, 0) ∧
    t.clamp = false ∧ t.blHeld = true ∧ t.episode = .closed ∧
    (∀ g : GroupNo, t.accounts[g] = 0 ∧ t.requests[g] = [] ∧ t.selection[g] = .auto ∧ t.blocked[g] = [] ∧
      t.groupLinks[g] = ⟨false, none⟩) ∧
    t.serviceAccount = 0 ∧ t.groupOrder = (List.finRange 6).filter (fun g => (t.table.groups[g]).configured) ∧
    t.window = .noWindow ∧ t.windowTimer = none ∧ t.tickTimer = none ∧ t.mark = none ∧ t.queue = [] ∧ t.slot = none ∧
    t.pacer = .halted ∧ t.pacerTimer = none ∧ t.admitted = false ∧ t.profile = t.table.site.profile ∧ t.staged = none ∧
    t.blankTimer = none ∧ t.strainLine = s.strainLine ∧ t.tripLine = s.tripLine ∧ t.trip = s.tripLine ∧
    t.filtered = (s.strainLine && t.table.site.filterTime = 0) ∧
    t.filterTimer = (if s.strainLine = true ∧ t.table.site.filterTime ≠ 0 then some (t.now + t.table.site.filterTime) else none) ∧
    t.powerLink = ⟨false, none⟩ ∧ t.panelLink = ⟨false, none⟩

/-! ### Group messages -/

/-- A STATUS writes its fields into the record of its car, with the handling of R23; in NORMAL it makes the capture image, elsewhere the
image stays; the saved context stays (R6, R7, R24). Under the fallback table it configures an absent car, and with its first car the group,
which joins the group order list at its end; without the fallback table an absent car stays absent (R21). -/
def Obligations.StatusWritesReport : Prop :=
  ∀ (s : State) (g : GroupNo) (r : StatusBytes) (c : CarNo), r.car.toNat = c.val →
    (s.configured (carOf g c) = true ∨ s.fallback.isSome = true →
      ∃ t x, exec (.status g r) s = .next t ∧ t.car (carOf g c) = some x ∧
        x.position.map Fin.val = (if r.position.toNat < 128 then some r.position.toNat else none) ∧
        x.between = r.flags.getLsbD 0 ∧ x.moving = r.flags.getLsbD 1 ∧ x.occupied = r.flags.getLsbD 2 ∧
        x.fire = r.flags.getLsbD 3 ∧ x.fault = r.flags.getLsbD 4 ∧ x.powered = r.flags.getLsbD 5 ∧
        x.door.code = min r.door.toNat 4 ∧
        x.load = (if r.load.toNat = 255 then none else some (min r.load.toNat 100)) ∧
        x.mode = r.modeDir.extractLsb' 0 4 ∧
        x.direction.code = (if (r.modeDir.extractLsb' 4 2).toNat = 3 then 0 else (r.modeDir.extractLsb' 4 2).toNat) ∧
        x.faultCode = r.faultCode ∧
        x.saved = (s.car (carOf g c)).bind Car.saved ∧
        (s.phase ≠ .normal → x.image = (s.car (carOf g c)).bind Car.image) ∧
        (s.phase = .normal → ∃ k, x.image = some k ∧ k.mode = x.mode ∧ k.direction = x.direction ∧ k.door = x.door ∧
          k.destination.map Fin.val = (if r.destination.toNat < 128 then some r.destination.toNat else none) ∧
          k.carCalls = min r.carCalls.toNat 63) ∧
        (s.configured (carOf g c) = false → (t.table.cars[carOf g c]).configured = true ∧ (t.table.groups[g]).configured = true ∧
          t.groupOrder = if (s.table.groups[g]).configured then s.groupOrder else s.groupOrder ++ [g])) ∧
    (s.configured (carOf g c) = false → s.fallback = none → ∃ t, exec (.status g r) s = .next t ∧ t.car (carOf g c) = none)

/-- The rest test on a report (R25, R31): in STARTUP, NORMAL, OUTAGE and TAKEOVER an at-rest STATUS without fault of a car that is STILL,
STRANDED or OUT for a reason that the report ends leaves it STILL where its position is a landing and it is not between floors, and STRANDED
otherwise. In every phase a report that does not end the out reason leaves the car OUT with the same reason, and its fields are stored
(R24, R31). A powered report without fault that ends the reason in RECALL or SERVICE has the car planned at once by its step (R31, R137). At
rest at a landing, a car on its way to recall dwells there with OPEN_DWELL where that is its recall landing, else is RECALL_DUE with a RECALL
entry for its recall landing, and STAY where it was RECALLING or in DWELL; where it has none, it is parked in place with PARK and ALERT
NO_RECALL_LANDING (R138); a car PARKED or in step SERVICE receives PARK. Stranded, each of these is RECALL_DUE with a locate entry. A car
SHUT, GIVEN_UP or NORMAL keeps its step; the POWER_UP case is StatusPlans'. A moving report is unpermitted motion: the car is STRANDED with M
reserved, STOP_NOW and ALERT UNPERMITTED, and no entry (R28, R134; that its step is RECALL_DUE then is assumption 29). In PRE_TRANSFER the car
comes to rest, in its step unless that is SERVICE and its fire flag clears (R146) or shedding shuts it (R67), and no entry is made before the
return (R31). A car that such a report configures under the fallback table in
RECALL or SERVICE receives STAY and is planned in the same way from AWAITING (R21, R137). -/
def Obligations.StatusRestTest : Prop :=
  (∀ (s : State) (g : GroupNo) (r : StatusBytes) (c : CarNo) (x : Car) (why : OutReason), s.Coherent → r.car.toNat = c.val →
    s.car (carOf g c) = some x → x.motion = .out why → r.flags.getLsbD 4 = false →
    why = .unpowered ∧ r.flags.getLsbD 5 = false ∨ why = .runTimeout ∧ (128 ≤ r.position.toNat ∨ r.flags.getLsbD 0 = true) →
    ∃ t y, exec (.status g r) s = .next t ∧ t.car (carOf g c) = some y ∧ y.motion = .out why ∧ y.attempts = x.attempts ∧
      y.position.map Fin.val = (if r.position.toNat < 128 then some r.position.toNat else none) ∧
      y.between = r.flags.getLsbD 0 ∧ y.powered = r.flags.getLsbD 5) ∧
  (∀ (s : State) (g : GroupNo) (r : StatusBytes) (c : CarNo) (x : Car), r.car.toNat = c.val → s.car (carOf g c) = some x →
    s.phase = .startup ∨ s.phase = .normal ∨ s.phase = .outage ∨ s.phase = .takeover →
    r.flags.getLsbD 1 = false → r.flags.getLsbD 4 = false → s.HoldsNoPermit (carOf g c) → x.member = none → x.pending = none →
    (x.motion = .still ∨ x.motion = .stranded) ∧ (r.flags.getLsbD 5 = true ∨ x.order = some .shut ∨ x.order = some .powerUp) ∨
      r.flags.getLsbD 5 = true ∧ (x.motion = .out .fault ∨ x.motion = .out .link ∨ x.motion = .out .silent ∨ x.motion = .out .unpowered ∨
        x.motion = .out .runTimeout ∧ r.position.toNat < 128 ∧ r.flags.getLsbD 0 = false) →
    ∃ t y, exec (.status g r) s = .next t ∧ t.car (carOf g c) = some y ∧ y.attempts = x.attempts ∧
      y.motion = if r.position.toNat < 128 ∧ r.flags.getLsbD 0 = false then .still else .stranded) ∧
  (∀ (s : State) (g : GroupNo) (r : StatusBytes) (c : CarNo) (x : Car) (why : OutReason), s.Coherent → r.car.toNat = c.val →
    s.car (carOf g c) = some x → x.motion = .out why → x.step ≠ .shut ∨ x.order ≠ some .powerUp →
    r.flags.getLsbD 4 = false → r.flags.getLsbD 5 = true →
    why ≠ .runTimeout ∨ r.position.toNat < 128 ∧ r.flags.getLsbD 0 = false →
    ∃ t y, exec (.status g r) s = .next t ∧ t.car (carOf g c) = some y ∧ y.attempts = x.attempts ∧
      (s.phase = .preTransfer → r.flags.getLsbD 1 = false → t.entriesOf (carOf g c) = [] ∧
        (x.step ≠ .service ∨ x.fire = false ∨ r.flags.getLsbD 3 = true → y.step = x.step ∨ x.step = .parked ∧ y.step = .shut) ∧
        y.motion = if r.position.toNat < 128 ∧ r.flags.getLsbD 0 = false then .still else .stranded) ∧
      (s.phase = .recall ∨ s.phase = .service → r.flags.getLsbD 1 = true →
        y.motion = .stranded ∧ y.unpermitted = true ∧ t.entriesOf (carOf g c) = [] ∧
        (x.unpermitted = false → (.link (.group g), .order c .stopNow 0) ∈ t.outbox ∧
          (s.panelLink.up = true → (.link .panel, .alert (.unpermitted (carOf g c) y.position)) ∈ t.outbox)) ∧
        y.step = if x.step = .shut ∨ x.step = .givenUp ∨ x.step = .normal then x.step else .recallDue) ∧
      (s.phase = .recall ∨ s.phase = .service → r.flags.getLsbD 1 = false → y.unpermitted = false ∧
        (x.step = .shut ∨ x.step = .givenUp ∨ x.step = .normal → y.step = x.step ∧ t.entriesOf (carOf g c) = [] ∧
          y.motion = if r.position.toNat < 128 ∧ r.flags.getLsbD 0 = false then .still else .stranded) ∧
        (x.step = .awaiting ∨ x.step = .recallDue ∨ x.step = .recalling ∨ x.step = .dwell → r.flags.getLsbD 0 = false →
          ∀ p : Landing, r.position.toNat = p.val →
            (∀ d, s.recallLanding g p = some d →
              (p = d → y.step = .dwell ∧ y.motion = .still ∧ t.entriesOf (carOf g c) = [] ∧
                y.dwell = some (s.now + (s.table.groups[g]).dwellTime * 20) ∧
                (.link (.group g), .order c .openDwell ((s.table.groups[g]).dwellTime * 10)) ∈ t.outbox) ∧
              (p ≠ d → y.step = .recallDue ∧ y.motion = .requested ∧
                (x.step = .recalling ∨ x.step = .dwell → (.link (.group g), .order c .stay 0) ∈ t.outbox) ∧
                t.entriesOf (carOf g c) = [{
                  car := carOf g c, cls := .recall, destination := some d,
                  trapped := r.flags.getLsbD 2 && !decide (r.door.toNat = 2), arrival := s.now / 2 }])) ∧
            (s.recallLanding g p = none → y.motion = .still ∧ y.dwell = none ∧ t.entriesOf (carOf g c) = [] ∧
              (.link (.group g), .order c .park (s.table.groups[g]).parkDoors.code) ∈ t.outbox ∧
              (s.panelLink.up = true → ∃ first second, (.link .panel, .alert (.noRecallLanding (carOf g c) p first second)) ∈ t.outbox ∧
                first ∈ s.blocked[g] ∧ second ∈ s.blocked[g]))) ∧
        (x.step = .parked ∨ x.step = .service → r.position.toNat < 128 → r.flags.getLsbD 0 = false →
          y.motion = .still ∧ t.entriesOf (carOf g c) = [] ∧
          (.link (.group g), .order c .park (s.table.groups[g]).parkDoors.code) ∈ t.outbox ∧
          (s.Fresh → s.Shaped → s.bl + s.ml + (s.table.cars[carOf g c]).i ≤ s.peak → s.rl ≤ s.absorbRoom → r.flags.getLsbD 3 = false →
            s.phase = .recall ∧ (∃ m z, m ≠ carOf g c ∧ s.car m = some z ∧ ¬ z.meetsRecall) ∨
              s.phase = .service ∧ s.selection[g] = .nobody ∧ (s.table.groups[g]).shutWhenParked = false →
            y.step = .parked ∧ y.member = none ∧ y.order = some (.park (s.table.groups[g]).parkDoors))) ∧
        (x.step ≠ .shut → x.step ≠ .givenUp → x.step ≠ .normal → 128 ≤ r.position.toNat ∨ r.flags.getLsbD 0 = true →
          y.step = .recallDue ∧ y.motion = .requested ∧
          (x.step ≠ .awaiting → x.step ≠ .recallDue → (.link (.group g), .order c .stay 0) ∈ t.outbox) ∧
          t.entriesOf (carOf g c) = [{
            car := carOf g c, cls := .recall, destination := none, trapped := r.flags.getLsbD 2 && !decide (r.door.toNat = 2),
            arrival := s.now / 2 }]))) ∧
  ∀ (s : State) (g : GroupNo) (r : StatusBytes) (c : CarNo), s.Coherent → r.car.toNat = c.val → s.car (carOf g c) = none →
    s.fallback.isSome = true → s.phase = .recall ∨ s.phase = .service →
    r.flags.getLsbD 1 = false → r.flags.getLsbD 4 = false → r.flags.getLsbD 5 = true →
    ∃ t y, exec (.status g r) s = .next t ∧ t.car (carOf g c) = some y ∧ (.link (.group g), .order c .stay 0) ∈ t.outbox ∧
      (128 ≤ r.position.toNat ∨ r.flags.getLsbD 0 = true → y.step = .recallDue ∧ y.motion = .requested ∧
        t.entriesOf (carOf g c) = [{
          car := carOf g c, cls := .recall, destination := none, trapped := r.flags.getLsbD 2 && !decide (r.door.toNat = 2),
          arrival := s.now / 2 }]) ∧
      (r.flags.getLsbD 0 = false → ∀ p d : Landing, r.position.toNat = p.val → s.recallLanding g p = some d →
        (p = d → y.step = .dwell ∧ y.motion = .still ∧ t.entriesOf (carOf g c) = [] ∧
          y.dwell = some (s.now + (s.table.groups[g]).dwellTime * 20)) ∧
        (p ≠ d → y.step = .recallDue ∧ y.motion = .requested ∧ t.entriesOf (carOf g c) = [{
          car := carOf g c, cls := .recall, destination := some d,
          trapped := r.flags.getLsbD 2 && !decide (r.door.toNat = 2), arrival := s.now / 2 }]))

/-- A STATUS with the fault flag set makes its car OUT (FAULT); one with fault and powered flag clear makes it OUT (UNPOWERED), where its
standing order is neither SHUT nor POWER_UP and it is not OUT, or OUT (LINK) or OUT (SILENT); so whatever the car held: no entry, no permit
and no pending record are left, a SERVICE or FIRE one is answered REFUSE CANCELLED, a waiting permit's charges are refunded, and an admitted
run is abandoned with STOP_NOW (R26, R27, R30; for an unpowered report, against R29, assumption 52). With the moving flag set, in a standby
phase and without an admitted permit, the report is unpermitted motion too (R28, R134; that both apply is assumption 27). -/
def Obligations.StatusOut : Prop :=
  ∀ (s : State) (g : GroupNo) (r : StatusBytes) (c : CarNo) (x : Car) (why : OutReason), s.Coherent → r.car.toNat = c.val →
    s.car (carOf g c) = some x →
    r.flags.getLsbD 4 = true ∧ why = .fault ∨
      r.flags.getLsbD 4 = false ∧ r.flags.getLsbD 5 = false ∧ x.order ≠ some .shut ∧ x.order ≠ some .powerUp ∧
        (x.motion.isOut = false ∨ x.motion = .out .link ∨ x.motion = .out .silent) ∧ why = .unpowered →
    ∃ t y, exec (.status g r) s = .next t ∧ t.car (carOf g c) = some y ∧ y.motion = .out why ∧ y.run = none ∧ y.pending = none ∧
      y.dwell = none ∧ t.entriesOf (carOf g c) = [] ∧ t.waitsOf (carOf g c) = [] ∧
      (x.run.isSome = true → (.link (.group g), .order c .stopNow 0) ∈ t.outbox) ∧
      ((∃ e ∈ s.entriesOf (carOf g c), e.cls ≠ .recall) ∨ (∃ w ∈ s.waitsOf (carOf g c), w.permit.cls ≠ .recall) →
        (.link (.group g), .refuse (byteOf c.val) .cancelled) ∈ t.outbox) ∧
      (∀ w ∈ s.waitsOf (carOf g c), t.accounts[g] ≤ s.accounts[g] - w.permit.groupCharge) ∧
      (r.flags.getLsbD 1 = true → s.standby = true → x.run = none → y.unpermitted = true ∧ (x.unpermitted = false →
        (.link (.group g), .order c .stopNow 0) ∈ t.outbox ∧
        (s.panelLink.up = true → (.link .panel, .alert (.unpermitted (carOf g c) y.position)) ∈ t.outbox))) ∧
      (r.flags.getLsbD 1 = false → y.unpermitted = false)

/-- A moving STATUS without fault of a powered car that is not OUT and holds no admitted permit is unpermitted motion in a standby phase:
the car is STRANDED with M reserved for it, its entry and its waiting permit are gone, STOP_NOW and ALERT UNPERMITTED begin the episode,
once (R28, R60, R134). In the other phases its motion state stays. -/
def Obligations.StatusUnpermitted : Prop :=
  ∀ (s : State) (g : GroupNo) (r : StatusBytes) (c : CarNo) (x : Car), s.Coherent → r.car.toNat = c.val → s.car (carOf g c) = some x →
    r.flags.getLsbD 1 = true → r.flags.getLsbD 4 = false → r.flags.getLsbD 5 = true → x.run = none → x.motion.isOut = false →
    ∃ t y, exec (.status g r) s = .next t ∧ t.car (carOf g c) = some y ∧
      (s.standby = true → y.motion = .stranded ∧ y.unpermitted = true ∧ t.entriesOf (carOf g c) = [] ∧ t.waitsOf (carOf g c) = [] ∧
        (x.unpermitted = false → (.link (.group g), .order c .stopNow 0) ∈ t.outbox ∧
          (s.panelLink.up = true → (.link .panel, .alert (.unpermitted (carOf g c) y.position)) ∈ t.outbox))) ∧
      (s.standby = false → y.motion = x.motion ∧ y.unpermitted = x.unpermitted)

/-- What the Recall Planner does at an at-rest STATUS of a car without a run. A car in DWELL, PARKED or SERVICE that is stranded in RECALL or
SERVICE is RECALL_DUE with STAY and a locate entry, out of its service set and with its dwell timer stopped (R137, R143). A RECALL_DUE car
without entry or permit is given a locate entry where it is stranded; at a landing it dwells, is given its recall entry, or is parked in
place (R142, R143). A DWELL car that has moved to a landing other than its recall landing takes the same course, with STAY where it is
RECALL_DUE. In PRE_TRANSFER the steps change likewise, and an entry waits for the return (R143, assumption 30). A DWELL car that has not moved
or is at its recall landing, and a SERVICE car at a landing, keep step, order, membership and dwell. A PARKED and STILL car whose fire flag
is set receives RELEASE and is in step SERVICE, in phase SERVICE as a FIRE_RELEASED member; when the flag of such a member clears, it becomes
ORDINARY where the counted members are below the target and it is a candidate, else it leaves the set with PARK, and under shut-when-parked
it is SHUT (R148 to R150). A powered report of a POWERING car makes it PARKED with PARK; in SERVICE under its own selection it is released
at once as an ORDINARY member (R148). In OUTAGE such a report gives PARKED with PARK too, while a takeover is SETTLING PARKED without an
order (R14, R27, assumption 31). A report that repeats place, power and fire flag of a STILL car leaves its course and sends it no order,
but for a RECALL_DUE car, a PARKED one with its fire flag set, and an answered POWER_UP (R25, R143, R148). A powered report without fault of
a running car leaves run, motion, step and record (R29); an ABANDON record is HaltedFails'. -/
def Obligations.StatusPlans : Prop :=
  (∀ (s : State) (g : GroupNo) (r : StatusBytes) (c : CarNo) (x : Car), r.car.toNat = c.val → s.car (carOf g c) = some x →
    s.HoldsNoPermit (carOf g c) → s.entriesOf (carOf g c) = [] → x.pending = none →
    r.flags.getLsbD 1 = false → r.flags.getLsbD 4 = false → r.flags.getLsbD 5 = true →
    (s.phase = .recall ∨ s.phase = .service → x.step = .service → x.motion = .still →
      128 ≤ r.position.toNat ∨ r.flags.getLsbD 0 = true →
      ∃ t y, exec (.status g r) s = .next t ∧ t.car (carOf g c) = some y ∧ y.step = .recallDue ∧ y.motion = .requested ∧
        y.order = some .stay ∧ y.member = none ∧ (.link (.group g), .order c .stay 0) ∈ t.outbox ∧
        t.entriesOf (carOf g c) = [{
          car := carOf g c, cls := .recall, destination := none,
          trapped := r.flags.getLsbD 2 && !decide (r.door.toNat = 2), arrival := s.now / 2 }]) ∧
    (s.Fresh → s.Shaped → s.Coherent → x.motion = .still → x.powered = true → x.unpermitted = false → r.position.toNat < 128 →
      r.flags.getLsbD 0 = false →
      (s.phase = .recall ∨ s.phase = .service → x.step = .parked → r.flags.getLsbD 3 = true →
        ∃ t y, exec (.status g r) s = .next t ∧ t.car (carOf g c) = some y ∧ y.step = .service ∧ y.motion = .still ∧
          y.order = some .release ∧ (.link (.group g), .order c .release 0) ∈ t.outbox ∧
          y.member = if s.phase = .service then some .fireReleased else none) ∧
      (s.phase = .service → x.member = some .fireReleased → x.fire = true → r.flags.getLsbD 3 = false →
        ∃ t y, exec (.status g r) s = .next t ∧ t.car (carOf g c) = some y ∧ y.motion = .still ∧
          if s.setCount g < s.setTarget g ∧ c.val ∈ s.setCandidates g then
            y.step = .service ∧ y.member = some .ordinary ∧ y.order = x.order ∧ t.cars = s.cars.set (carOf g c) (some y)
          else y.member = none ∧ (.link (.group g), .order c .park (s.table.groups[g]).parkDoors.code) ∈ t.outbox ∧
            y.step = if (s.table.groups[g]).shutWhenParked = true then .shut else .parked)) ∧
    (s.Fresh → s.Shaped → s.Coherent → x.motion = .still ∨ x.motion = .out .unpowered → x.unpermitted = false → x.step = .shut →
      x.order = some .powerUp → x.member = some .powering → r.position.toNat < 128 → r.flags.getLsbD 0 = false →
      r.flags.getLsbD 3 = false → s.bl + s.ml + (s.table.cars[carOf g c]).i ≤ s.peak → s.rl ≤ s.absorbRoom →
      ∃ t y, exec (.status g r) s = .next t ∧ t.car (carOf g c) = some y ∧ y.motion = .still ∧
        (.link (.group g), .order c .park (s.table.groups[g]).parkDoors.code) ∈ t.outbox ∧
        (s.phase = .preTransfer → y.step = .parked ∧ y.member = none ∧ y.order = some (.park (s.table.groups[g]).parkDoors)) ∧
        (s.phase = .service → s.selection[g] = .nobody → (s.table.groups[g]).shutWhenParked = false → y.step = .parked ∧ y.member = none) ∧
        (s.phase = .service → s.selection[g] = .car c → s.setCount g = 1 → y.step = .service ∧ y.member = some .ordinary ∧
          y.order = some .release ∧ (.link (.group g), .order c .release 0) ∈ t.outbox))) ∧
  (∀ (s : State) (g : GroupNo) (r : StatusBytes) (c : CarNo) (x : Car), s.Coherent → r.car.toNat = c.val → s.car (carOf g c) = some x →
    x.motion = .still ∨ x.motion = .stranded → x.pending = none → r.Rests →
    ∃ t y, exec (.status g r) s = .next t ∧ t.car (carOf g c) = some y ∧
      (s.phase = .recall ∨ s.phase = .service →
        (x.step = .recallDue → s.SentToRecall t (carOf g c) r.place r.trapped s.now) ∧
        (x.step = .dwell → ∀ p, r.place = some p → r.Moved x → s.recallLanding g p ≠ some p →
          s.SentToRecall t (carOf g c) (some p) r.trapped s.now ∧ t.StaysIfDue (carOf g c)) ∧
        (x.step = .dwell ∨ x.step = .parked ∨ x.step = .service → r.place = none →
          s.SentToRecall t (carOf g c) none r.trapped s.now ∧ t.Told (carOf g c) .stay 0 ∧ y.member = none ∧ y.dwell = none)) ∧
      (s.phase = .preTransfer → s.standby = true →
        (x.step = .recallDue → r.Moved x ∨ x.planDue = false →
          s.SentInPreTransfer t (carOf g c) r.place r.trapped s.now) ∧
        (x.step = .dwell → ∀ p, r.place = some p → r.Moved x → s.recallLanding g p ≠ some p →
          s.SentInPreTransfer t (carOf g c) (some p) r.trapped s.now ∧ t.StaysIfDue (carOf g c)) ∧
        (x.step = .dwell ∨ x.step = .parked ∨ x.step = .service → r.place = none →
          s.SentInPreTransfer t (carOf g c) none r.trapped s.now ∧ t.Told (carOf g c) .stay 0 ∧ y.member = none ∧ y.dwell = none)) ∧
      (∀ p, r.place = some p → x.step = .dwell ∧ (¬ r.Moved x ∨ s.recallLanding g p = some p) ∨
          x.step = .service ∧ (x.fire = false ∨ r.flags.getLsbD 3 = true) →
        y.step = x.step ∧ y.motion = .still ∧ y.order = x.order ∧ y.member = x.member ∧ y.dwell = x.dwell ∧ t.entriesOf (carOf g c) = [])) ∧
  (∀ (s : State) (g : GroupNo) (r : StatusBytes) (c : CarNo) (x : Car), s.Fresh → r.car.toNat = c.val → s.car (carOf g c) = some x →
    r.Rests → ¬ r.Moved x → r.flags.getLsbD 0 = false → x.motion = .still → x.pending = none → x.unpermitted = false → x.powered = true →
    x.fire = r.flags.getLsbD 3 → s.HoldsNoPermit (carOf g c) → s.entriesOf (carOf g c) = [] → r.place.isSome = true →
    x.step ≠ .recallDue → x.step ≠ .parked ∨ x.fire = false → x.step ≠ .shut ∨ x.order ≠ some .powerUp →
    ∃ t y, exec (.status g r) s = .next t ∧ t.car (carOf g c) = some y ∧ y.motion = x.motion ∧ y.step = x.step ∧ y.order = x.order ∧
      y.member = x.member ∧ y.dwell = x.dwell ∧ y.attempts = x.attempts ∧ t.entriesOf (carOf g c) = [] ∧
      ((s.groupLinks[g]).up = true → ∀ m, (.link (.group g), m) ∈ t.outbox → ∀ o p, m ≠ .order c o p)) ∧
  (∀ (s : State) (g : GroupNo) (r : StatusBytes) (c : CarNo) (x : Car) (run : Run), s.Fresh → s.Coherent → r.car.toNat = c.val →
    s.car (carOf g c) = some x → x.run = some run → r.flags.getLsbD 4 = false → r.flags.getLsbD 5 = true → x.powered = true →
    x.unpermitted = false → x.fire = false ∨ r.flags.getLsbD 3 = true → (∀ a, x.pending = some a → a.kind ≠ .abandon) →
    ∃ t y, exec (.status g r) s = .next t ∧ t.car (carOf g c) = some y ∧ y.run = some run ∧ y.motion = x.motion ∧ y.step = x.step ∧
      y.pending = x.pending ∧ y.unpermitted = false ∧ y.position.map Fin.val = (if r.position.toNat < 128 then some r.position.toNat else none) ∧
      y.between = r.flags.getLsbD 0) ∧
  ∀ (s : State) (g : GroupNo) (r : StatusBytes) (c : CarNo) (x : Car), s.Fresh → s.Shaped → s.Coherent → s.overCommitted = false →
    r.car.toNat = c.val → s.car (carOf g c) = some x → x.step = .shut → x.order = some .powerUp → r.flags.getLsbD 1 = false →
    r.flags.getLsbD 5 = true →
    (s.phase = .outage → ∃ t y, exec (.status g r) s = .next t ∧ t.car (carOf g c) = some y ∧ y.step = .parked ∧
      y.order = some (.park (s.table.groups[g]).parkDoors) ∧ t.Told (carOf g c) .park (s.table.groups[g]).parkDoors.code) ∧
    (s.phase = .takeover → ∃ t y, exec (.status g r) s = .next t ∧ t.car (carOf g c) = some y ∧ y.step = .parked ∧ y.order = x.order ∧
      ((s.groupLinks[g]).up = true → ∀ m, (.link (.group g), m) ∈ t.outbox → ∀ o p, m ≠ .order c o p))

/-- An at-rest STATUS, without fault and powered, of a car that is REQUESTED or GRANTED (R25). Where it fails the rest test, a locate entry
or permit stands; any other goes: a SERVICE or FIRE one is answered REFUSE CANCELLED, and the car, stranded in step SERVICE, is reclaimed
(R143); for a RECALL one a locate entry is made, in PRE_TRANSFER on the return. Where the car rests at the destination, the entry or permit
goes: a SERVICE or FIRE one is answered REFUSE BAD_LANDING, a RECALL one takes the arrival effect. Where it rests elsewhere, the entry or
permit stands, an entry with class and trapped flag by the report (R83). A permit that goes is refunded (R73). -/
def Obligations.StatusOfWaiting : Prop :=
  ∀ (s : State) (g : GroupNo) (r : StatusBytes) (c : CarNo) (x : Car) (cls : RunClass) (dest : Option Landing) (trapped : Bool),
    s.Fresh → s.Shaped → s.Coherent → r.car.toNat = c.val → s.car (carOf g c) = some x → x.pending = none →
    x.unpermitted = false → x.powered = true →
    r.flags.getLsbD 1 = false → r.flags.getLsbD 4 = false → r.flags.getLsbD 5 = true → (x.fire = true → r.flags.getLsbD 3 = true) →
    trapped = (r.flags.getLsbD 2 && !decide (r.door.toNat = 2)) →
    (∃ e, s.entriesOf (carOf g c) = [e] ∧ e.cls = cls ∧ e.destination = dest) ∨
      (∃ w, s.waitsOf (carOf g c) = [w] ∧ w.permit.cls = cls ∧ w.permit.destination = dest) →
    ∃ t y, exec (.status g r) s = .next t ∧ t.car (carOf g c) = some y ∧
      ((128 ≤ r.position.toNat ∨ r.flags.getLsbD 0 = true) ∧ dest = none ∨
          r.position.toNat < 128 ∧ r.flags.getLsbD 0 = false ∧ dest.map Fin.val ≠ some r.position.toNat →
        y.motion = x.motion ∧ t.waitsOf (carOf g c) = s.waitsOf (carOf g c) ∧
        t.entriesOf (carOf g c) = (s.entriesOf (carOf g c)).map fun e =>
          if cls = .recall then { e with trapped := trapped } else { e with cls := if r.flags.getLsbD 3 then .fire else .service }) ∧
      (128 ≤ r.position.toNat ∨ r.flags.getLsbD 0 = true → dest ≠ none →
        t.waitsOf (carOf g c) = [] ∧ (∀ w ∈ s.waitsOf (carOf g c), t.accounts[g] ≤ s.accounts[g] - w.permit.groupCharge) ∧
        (cls ≠ .recall → (.link (.group g), .refuse (byteOf c.val) .cancelled) ∈ t.outbox) ∧
        (cls = .recall ∨ x.step = .service → s.phase = .recall ∨ s.phase = .service →
          y.step = .recallDue ∧ y.motion = .requested ∧ t.entriesOf (carOf g c) = [{
            car := carOf g c, cls := .recall, destination := none, trapped := trapped, arrival := s.now / 2 }]) ∧
        (cls = .recall → s.phase = .preTransfer → y.motion = .stranded ∧ y.planDue = true ∧ t.entriesOf (carOf g c) = [])) ∧
      (r.position.toNat < 128 → r.flags.getLsbD 0 = false → dest.map Fin.val = some r.position.toNat →
        t.waitsOf (carOf g c) = [] ∧ (∀ w ∈ s.waitsOf (carOf g c), t.accounts[g] ≤ s.accounts[g] - w.permit.groupCharge) ∧
        (cls ≠ .recall → y.motion = .still ∧ t.entriesOf (carOf g c) = [] ∧
          (.link (.group g), .refuse (byteOf c.val) .badLanding) ∈ t.outbox) ∧
        ∀ p d, dest = some p → cls = .recall → s.recallLanding g p = some d →
          (d = p → y.step = .dwell ∧ y.motion = .still ∧ t.entriesOf (carOf g c) = [] ∧
            y.dwell = some (s.now + (s.table.groups[g]).dwellTime * 20)) ∧
          (d ≠ p → s.phase = .recall ∨ s.phase = .service → y.step = .recallDue ∧ y.motion = .requested ∧
            t.entriesOf (carOf g c) = [{
              car := carOf g c, cls := .recall, destination := some d, trapped := trapped, arrival := s.now / 2 }]))

/-- A REQUEST that passes every test of R84 is accepted without an answer: a STILL car becomes REQUESTED with an entry at the end of its
group's list, of class FIRE while its fire flag is set and SERVICE otherwise; a REQUESTED car's entry takes the new destination and keeps
its arrival time and its place, and a mark on it goes (R85, R94). It is refused at the first test of R84 that fails, in the order of the
rule, and then changes no list. -/
def Obligations.Requests : Prop :=
  (∀ (s : State) (g : GroupNo) (b d : Byte) (c : CarNo) (x : Car) (p l : Landing), b.toNat = c.val → s.car (carOf g c) = some x →
    s.phase = .service ∨ s.phase = .recall ∧ x.step = .service → x.owner = .group → x.position = some p →
    d.toNat = l.val → (s.table.groups[g]).lowest ≤ l.val → l.val ≤ (s.table.groups[g]).highest → p ≠ l →
    s.HoldsNoPermit (carOf g c) → (∀ e ∈ s.requests[g], e.arrival ≤ s.now / 2) →
    (x.motion = .still → s.entriesOf (carOf g c) = [] →
      ∃ t y, exec (.request g b d) s = .next t ∧ t.car (carOf g c) = some y ∧ y.motion = .requested ∧
        (∀ why, (.link (.group g), .refuse b why) ∉ t.outbox) ∧
        t.requests = s.requests.set g (s.requests[g] ++ [{
          car := carOf g c, cls := if x.fire then .fire else .service,
          destination := some l, trapped := false, arrival := s.now / 2 }])) ∧
    (x.motion = .requested →
      ∃ t y, exec (.request g b d) s = .next t ∧ t.car (carOf g c) = some y ∧ y.motion = .requested ∧
        (∀ why, (.link (.group g), .refuse b why) ∉ t.outbox) ∧
        t.mark = (if s.mark = some (carOf g c) then none else s.mark) ∧
        t.requests = s.requests.set g ((s.requests[g]).map fun e => if e.car = carOf g c then
          { e with destination := some l, cls := if x.fire then .fire else .service } else e))) ∧
  ∀ (s : State) (g : GroupNo) (b d : Byte) (why : RefuseReason),
    ((∀ c : CarNo, b.toNat = c.val → s.car (carOf g c) = none) ∧ why = .noCar ∨
      ∃ (c : CarNo) (x : Car), b.toNat = c.val ∧ s.car (carOf g c) = some x ∧
        if ¬ (s.phase = .service ∨ s.phase = .recall ∧ x.step = .service) then why = .phase
        else if x.owner ≠ .group then why = .notOwner
        else if x.motion.isOut = true ∨ x.motion = .stranded ∨ x.position = none then why = .out
        else if x.motion ≠ .still ∧ x.motion ≠ .requested then why = .busy
        else (d.toNat < (s.table.groups[g]).lowest ∨ (s.table.groups[g]).highest < d.toNat ∨ 128 ≤ d.toNat ∨
          x.position.map Fin.val = some d.toNat) ∧ why = .badLanding) →
    ∃ t, exec (.request g b d) s = .next t ∧ (.link (.group g), .refuse b why) ∈ t.outbox ∧ t.requests = s.requests ∧
      t.mark = s.mark ∧ s.Spares t none

/-- A WITHDRAW removes the entry of a car of its group, or cancels its waiting permit with refund, and the car becomes STILL or STRANDED by
the rest test; it is refused with NO_CAR, NOT_OWNER and BUSY, and of a car that holds nothing it changes nothing (R73, R86). -/
def Obligations.Withdraws : Prop :=
  (∀ (s : State) (g : GroupNo) (b : Byte) (c : CarNo) (x : Car), b.toNat = c.val → s.car (carOf g c) = some x → x.owner = .group →
    x.run = none →
    (x.motion = .requested → s.entriesOf (carOf g c) ≠ [] → s.waitsOf (carOf g c) = [] →
      ∃ t y, exec (.withdraw g b) s = .next t ∧ t.car (carOf g c) = some y ∧ t.entriesOf (carOf g c) = [] ∧
        y.motion = if x.position.isSome = true ∧ x.between = false then .still else .stranded) ∧
    (∀ w, x.motion = .granted → s.entriesOf (carOf g c) = [] → s.waitsOf (carOf g c) = [w] →
      ∃ t y, exec (.withdraw g b) s = .next t ∧ t.car (carOf g c) = some y ∧ t.waitsOf (carOf g c) = [] ∧
        t.accounts[g] ≤ s.accounts[g] - w.permit.groupCharge ∧ t.serviceAccount ≤ s.serviceAccount - w.permit.serviceCharge ∧
        y.motion = if x.position.isSome = true ∧ x.between = false then .still else .stranded)) ∧
  ∀ (s : State) (g : GroupNo) (b : Byte),
    ((∀ c : CarNo, b.toNat = c.val → s.car (carOf g c) = none) →
      ∃ t, exec (.withdraw g b) s = .next t ∧ (.link (.group g), .refuse b .noCar) ∈ t.outbox ∧ s.Spares t none) ∧
    ∀ (c : CarNo) (x : Car), b.toNat = c.val → s.car (carOf g c) = some x →
      (x.owner ≠ .group →
        ∃ t, exec (.withdraw g b) s = .next t ∧ (.link (.group g), .refuse b .notOwner) ∈ t.outbox ∧ s.Spares t none) ∧
      (x.owner = .group → x.motion = .starting ∨ x.motion = .running ∨ x.motion = .stopping →
        ∃ t, exec (.withdraw g b) s = .next t ∧ (.link (.group g), .refuse b .busy) ∈ t.outbox ∧ s.Spares t none) ∧
      (x.owner = .group → x.motion.supervised = false → s.entriesOf (carOf g c) = [] → s.waitsOf (carOf g c) = [] →
        ∃ t, exec (.withdraw g b) s = .next t ∧ s.Spares t none)

/-- STARTED of a permit in STARTED-WAIT: it is RUNNING with the run timer at its run limit, a STARTING car becomes RUNNING and a STOPPING
one stays so, the panel receives the car's summary; nothing else in the state changes but the link's silence timer (R124, R159). STARTED of
a run that is RUNNING or in GRACE changes nothing (R124). -/
def Obligations.StartedRuns : Prop :=
  ∀ (s : State) (g : GroupNo) (b : Byte) (c : CarNo) (x : Car) (r : Run), s.Fresh → b.toNat = c.val →
    s.car (carOf g c) = some x → x.run = some r → x.motion.supervised = true →
    ∃ t, exec (.started g b) s = .next t ∧
      ((∃ e, r.state = .startedWait e) →
        t.silent = { s with
          cars := s.cars.set (carOf g c) (some { x with
            run := some { r with state := .running (s.now + r.limit * 2) },
            motion := if x.motion = Motion.starting then Motion.running else x.motion }),
          groupLinks := s.groupLinks.set g ⟨true, some (s.now + 60)⟩ }.silent ∧
        (s.panelLink.up = true →
          ∀ y, t.car (carOf g c) = some y → (.link .panel, .car (t.summary (carOf g c) y)) ∈ t.outbox)) ∧
      ((∀ e, r.state ≠ .startedWait e) → t.silent = { s with groupLinks := s.groupLinks.set g ⟨true, some (s.now + 60)⟩ }.silent)

/-- ARRIVED at a landing ends the run of a car: its position is that landing, it holds no permit and no unpermitted-motion reservation
(R126). Without a pending action it is STILL; a RECALLING car at its recall landing goes to DWELL with OPEN_DWELL and the dwell timer (R141,
R145); at another landing, as after a locate run, it is RECALL_DUE and REQUESTED with a new RECALL entry to its recall landing (R141), and
where both landings of its group are blocked it is parked in place with PARK, the no-landing mark and ALERT NO_RECALL_LANDING (R138, R141).
So does a car that a RETRY has taken from GIVEN_UP during the run (assumption 17); a car in another step keeps its step. A
pending COMPLETE or CURTAIL with PARK_AFTER sends PARK to a car in step SERVICE (R133). One with REREQUEST_AFTER of a SERVICE or FIRE run
makes the request again, in RECALL and SERVICE, with the origin's arrival time, or answers REFUSE CANCELLED; at the destination itself it
does neither (R97). -/
def Obligations.ArrivedEndsRun : Prop :=
  ∀ (s : State) (g : GroupNo) (b k : Byte) (c : CarNo) (x : Car) (r : Run) (l : Landing), b.toNat = c.val → k.toNat = l.val →
    s.car (carOf g c) = some x → x.run = some r →
    ∃ t y, exec (.arrived g b k) s = .next t ∧ t.car (carOf g c) = some y ∧
      y.position = some l ∧ y.between = false ∧ y.run = none ∧ y.unpermitted = false ∧ y.attempts = x.attempts ∧
      (s.waitsOf (carOf g c) = [] → x.pending = none →
        (x.step ≠ .recalling → x.step ≠ .parked → x.step ≠ .shut → r.permit.cls ≠ .recall ∨ x.step ≠ .recallDue ∧ x.step ≠ .awaiting →
          y.motion = .still ∧ y.step = x.step ∧ y.order = x.order) ∧
        (x.step = .recalling ∨ r.permit.cls = .recall ∧ (x.step = .recallDue ∨ x.step = .awaiting) → s.recallLanding g l = some l →
          y.motion = .still ∧ y.step = .dwell ∧ y.dwell = some (s.now + (s.table.groups[g]).dwellTime * 20) ∧
          (.link (.group g), .order c .openDwell ((s.table.groups[g]).dwellTime * 10)) ∈ t.outbox) ∧
        (x.step = .recalling ∨ r.permit.cls = .recall ∧ (x.step = .recallDue ∨ x.step = .awaiting) → s.entriesOf (carOf g c) = [] →
          (∀ d, s.recallLanding g l = some d → d ≠ l → y.step = .recallDue ∧ y.motion = .requested ∧
            t.entriesOf (carOf g c) = [{
              car := carOf g c, cls := .recall, destination := some d, trapped := x.occupied && !decide (x.door = .opened),
              arrival := s.now / 2 }]) ∧
          (s.recallLanding g l = none → s.Fresh → s.Shaped → s.Coherent → s.overCommitted = false →
            y.motion = .still ∧ y.dwell = none ∧ t.entriesOf (carOf g c) = [] ∧
            (.link (.group g), .order c .park (s.table.groups[g]).parkDoors.code) ∈ t.outbox ∧
            (s.panelLink.up = true → ∃ first second, (.link .panel, .alert (.noRecallLanding (carOf g c) l first second)) ∈ t.outbox ∧
              first ∈ s.blocked[g] ∧ second ∈ s.blocked[g]) ∧
            (s.phase = .preTransfer ∨
                s.phase = .recall ∧ x.fire = false ∧ (∃ m z, m ≠ carOf g c ∧ s.car m = some z ∧ z.motion.isOut = false ∧
                  z.step ≠ .parked ∧ z.step ≠ .shut ∧ z.step ≠ .givenUp) ∨
                s.phase = .service ∧ x.fire = false ∧ s.selection[g] = .nobody ∧ (s.table.groups[g]).shutWhenParked = false →
              y.step = .parked ∧ y.noLanding = true ∧ y.order = some (.park (s.table.groups[g]).parkDoors))))) ∧
      (∀ a, s.waitsOf (carOf g c) = [] → x.pending = some a → a.kind ≠ .abandon → a.flags.parkAfter = true → x.step = .service →
        (.link (.group g), .order c .park (s.table.groups[g]).parkDoors.code) ∈ t.outbox) ∧
      (∀ a, s.waitsOf (carOf g c) = [] → s.entriesOf (carOf g c) = [] → x.step = .service → r.permit.cls ≠ .recall → x.pending = some a →
        a.kind ≠ .abandon → a.cls ≠ .recall → a.flags = ⟨false, false, true⟩ →
        (a.destination = some l → y.motion = .still ∧ t.entriesOf (carOf g c) = [] ∧
          ∀ why, (.link (.group g), .refuse (byteOf c.val) why) ∉ t.outbox) ∧
        (a.destination ≠ some l → s.phase = .recall ∨ s.phase = .service → y.motion = .requested ∧
          t.entriesOf (carOf g c) = [{
            car := carOf g c, cls := if x.fire then .fire else .service, destination := a.destination, trapped := false,
            arrival := r.permit.origin }]) ∧
        (a.destination ≠ some l → s.phase ≠ .recall → s.phase ≠ .service → y.motion = .still ∧ t.entriesOf (carOf g c) = [] ∧
          (.link (.group g), .refuse (byteOf c.val) .cancelled) ∈ t.outbox))

/-- HALTED ends the run of a car as a failure: the position is the landing, or UNKNOWN, and the permit is gone (R127). An ARRIVED whose landing
is outside 0 to 127 is taken as HALTED with position unknown and cause OTHER, and does the same (R126). A RECALL run counts
an attempt, but in a GRACE begun by a run timeout; below the site maximum the car is RECALL_DUE with a new entry, a locate entry for a
position UNKNOWN, else one to its recall landing, and where it stands at that it dwells without a run (R43, R141); at the maximum it is
GIVEN_UP with ALERT GIVEN_UP (R33, R142). A SERVICE or FIRE run counts none, and a car that rests at a landing without a pending action
keeps step SERVICE (R127, R143). One that has stopped stranded is reclaimed: out of its service set, RECALL_DUE with STAY and a locate entry,
which in PRE_TRANSFER waits for the return (R133, R143, R149, assumption 30). A COMPLETE or CURTAIL record goes with the run: PARK_AFTER sends PARK to the
car at a landing, and RECLAIM_AFTER reclaims a stranded one as R143 does; REREQUEST_AFTER of a SERVICE or FIRE run makes the request again
with the origin's arrival time, or answers REFUSE CANCELLED to a car stranded or parked and outside RECALL and SERVICE, and does neither at
the destination (R97, R133). The record of an ABANDON stays while the car reports itself moving, and goes at its first STATUS with the moving
flag clear, in the same order: a car in RECALL_DUE takes the course of R142, a car in step SERVICE is parked where PARK_AFTER stands and is
reclaimed where it is stranded, and REREQUEST_AFTER is answered REFUSE CANCELLED, but at the destination itself (R132, R133, R142; that the
request is never made again then is assumption 24, whose class and destination it reads assumption 23). -/
def Obligations.HaltedFails : Prop :=
  (∀ (s : State) (i : Instr) (g : GroupNo) (b k cause : Byte) (c : CarNo) (x : Car) (r : Run),
    i = .halted g b k cause ∨ i = .arrived g b k ∧ 128 ≤ k.toNat ∧ cause = 3#8 →
    b.toNat = c.val → s.car (carOf g c) = some x → x.run = some r → s.waitsOf (carOf g c) = [] → s.entriesOf (carOf g c) = [] →
    x.pending = none →
    ∃ t y, exec i s = .next t ∧ t.car (carOf g c) = some y ∧ y.run = none ∧ y.unpermitted = false ∧
      y.position.map Fin.val = (if k.toNat < 128 then some k.toNat else none) ∧
      y.between = (if k.toNat < 128 then false else x.between) ∧
      (r.permit.cls ≠ .recall → y.attempts = x.attempts ∧
        (k.toNat < 128 → x.step = .service → y.motion = .still ∧ y.step = .service)) ∧
      (r.permit.cls = .recall → x.step = .recalling →
        ∀ a, a = (match r.state with
          | .grace .runTimeout _ => x.attempts
          | _ => min (x.attempts + 1) s.table.site.attempts) → y.attempts = a ∧
          (a < s.table.site.attempts → 128 ≤ k.toNat → y.step = .recallDue ∧ y.motion = .requested ∧
            t.entriesOf (carOf g c) = [{
              car := carOf g c, cls := .recall, destination := none,
              trapped := x.occupied && !decide (x.door = .opened), arrival := s.now / 2 }]) ∧
          (a < s.table.site.attempts → ∀ l d : Landing, k.toNat = l.val → s.recallLanding g l = some d →
            (d = l → y.step = .dwell ∧ y.motion = .still ∧ t.entriesOf (carOf g c) = [] ∧
              y.dwell = some (s.now + (s.table.groups[g]).dwellTime * 20)) ∧
            (d ≠ l → y.step = .recallDue ∧ y.motion = .requested ∧ t.entriesOf (carOf g c) = [{
              car := carOf g c, cls := .recall, destination := some d,
              trapped := x.occupied && !decide (x.door = .opened), arrival := s.now / 2 }])) ∧
          (s.table.site.attempts ≤ a → y.step = .givenUp ∧ t.entriesOf (carOf g c) = [] ∧
            (s.panelLink.up = true → ∃ f, f.code = min cause.toNat 3 ∧ (.link .panel, .alert (.givenUp (carOf g c) f)) ∈ t.outbox)))) ∧
  (∀ (s : State) (i : Instr) (g : GroupNo) (b k cause : Byte) (c : CarNo) (x : Car) (r : Run),
    i = .halted g b k cause ∨ i = .arrived g b k ∧ 128 ≤ k.toNat →
    b.toNat = c.val → s.car (carOf g c) = some x → x.run = some r → s.waitsOf (carOf g c) = [] → s.entriesOf (carOf g c) = [] →
    s.Coherent → r.permit.cls ≠ .recall → x.step = .service → (∀ a, x.pending = some a → a.kind ≠ .abandon) →
    ∃ t y, exec i s = .next t ∧ t.car (carOf g c) = some y ∧ y.run = none ∧ y.pending = none ∧ y.attempts = x.attempts ∧
      (128 ≤ k.toNat → s.phase = .recall ∨ s.phase = .service →
        s.SentToRecall t (carOf g c) none x.trappedNow s.now ∧ t.Told (carOf g c) .stay 0 ∧ y.member = none) ∧
      (128 ≤ k.toNat → s.phase = .preTransfer → s.standby = true →
        s.SentInPreTransfer t (carOf g c) none x.trappedNow s.now ∧ t.Told (carOf g c) .stay 0 ∧ y.member = none) ∧
      ∀ a, x.pending = some a →
        (k.toNat < 128 → a.flags.parkAfter = true → y.motion = .still ∧ t.entriesOf (carOf g c) = [] ∧
          t.Told (carOf g c) .park (s.table.groups[g]).parkDoors.code) ∧
        (k.toNat < 128 → a.flags.parkAfter = false → y.step = .service ∧ y.order = x.order ∧ y.member = x.member) ∧
        (a.flags.rerequestAfter = true → a.cls ≠ .recall →
          (k.toNat < 128 → a.destination.map Fin.val = some k.toNat → y.motion = .still ∧ t.entriesOf (carOf g c) = [] ∧
            ∀ why, (.link (.group g), .refuse (byteOf c.val) why) ∉ t.outbox) ∧
          (k.toNat < 128 → a.destination.map Fin.val ≠ some k.toNat → a.flags.parkAfter = false → s.phase = .recall ∨ s.phase = .service →
            y.motion = .requested ∧ t.entriesOf (carOf g c) = [{
              car := carOf g c, cls := if x.fire then .fire else .service, destination := a.destination, trapped := false,
              arrival := r.permit.origin }]) ∧
          (128 ≤ k.toNat ∨ a.destination.map Fin.val ≠ some k.toNat ∧ (a.flags.parkAfter = true ∨ s.phase ≠ .recall ∧ s.phase ≠ .service) →
            (.link (.group g), .refuse (byteOf c.val) .cancelled) ∈ t.outbox))) ∧
  ∀ (s : State) (g : GroupNo) (r : StatusBytes) (c : CarNo) (x : Car) (a : PendingAction), s.Coherent → r.car.toNat = c.val →
    s.car (carOf g c) = some x → x.motion = .still ∨ x.motion = .stranded → x.pending = some a → a.kind = .abandon →
    r.flags.getLsbD 4 = false → r.flags.getLsbD 5 = true → x.fire = false ∨ r.flags.getLsbD 3 = true →
    ∃ t y, exec (.status g r) s = .next t ∧ t.car (carOf g c) = some y ∧
      (r.flags.getLsbD 1 = true → y.pending = some a ∧ t.entriesOf (carOf g c) = []) ∧
      (r.flags.getLsbD 1 = false → y.pending = none ∧
        (s.phase = .recall ∨ s.phase = .service →
          (x.step = .recallDue → s.SentToRecall t (carOf g c) r.place r.trapped s.now) ∧
          (x.step = .service → r.place = none →
            s.SentToRecall t (carOf g c) none r.trapped s.now ∧ t.Told (carOf g c) .stay 0 ∧ y.member = none)) ∧
        (s.phase = .preTransfer → s.standby = true →
          (x.step = .recallDue → r.Moved x ∨ x.planDue = false →
            s.SentInPreTransfer t (carOf g c) r.place r.trapped s.now) ∧
          (x.step = .service → r.place = none →
            s.SentInPreTransfer t (carOf g c) none r.trapped s.now ∧ t.Told (carOf g c) .stay 0 ∧ y.member = none)) ∧
        (x.step = .service → r.place.isSome = true →
          y.motion = .still ∧ t.entriesOf (carOf g c) = [] ∧
          (a.flags.parkAfter = true → t.Told (carOf g c) .park (s.table.groups[g]).parkDoors.code) ∧
          (a.flags.parkAfter = false → y.step = .service ∧ y.order = x.order ∧ y.member = x.member)) ∧
        (a.flags.rerequestAfter = true ∧ a.cls ≠ .recall ∧ (r.place = none ∨ r.place ≠ a.destination) →
          (.link (.group g), .refuse (byteOf c.val) .cancelled) ∈ t.outbox) ∧
        (a.flags.rerequestAfter = false ∨ a.cls = .recall ∨ r.place.isSome = true ∧ r.place = a.destination →
          ∀ why, (.link (.group g), .refuse (byteOf c.val) why) ∉ t.outbox))

/-- A STARTED, ARRIVED or HALTED of a car that holds no admitted permit (R128). STARTED in a standby phase is unpermitted motion: entry and
waiting permit go, a SERVICE or FIRE one is answered REFUSE CANCELLED, the car is STRANDED, but for an OUT one, and M is reserved for it
with STOP_NOW and ALERT UNPERMITTED (R60, R134; that an OUT one stays OUT with M reserved is assumption 27); in another phase it has no
effect. ARRIVED and HALTED write the place and end an unpermitted-motion reservation; an OUT car stays OUT (that its reservation ends too is
assumption 28), every other is taken as at rest there: a SERVICE or FIRE entry or permit for that
landing goes with REFUSE BAD_LANDING, one for another landing stands (R25). No attempt is counted. -/
def Obligations.LateReports : Prop :=
  ∀ (s : State) (g : GroupNo) (b : Byte) (c : CarNo) (x : Car), s.Coherent → b.toNat = c.val → s.car (carOf g c) = some x → x.run = none →
    (s.standby = true → ∃ t y, exec (.started g b) s = .next t ∧ t.car (carOf g c) = some y ∧
      y.motion = (if x.motion.isOut then x.motion else .stranded) ∧ y.unpermitted = true ∧ y.attempts = x.attempts ∧
      t.entriesOf (carOf g c) = [] ∧ t.waitsOf (carOf g c) = [] ∧
      (∀ w ∈ s.waitsOf (carOf g c), t.accounts[g] ≤ s.accounts[g] - w.permit.groupCharge) ∧
      ((∃ e ∈ s.entriesOf (carOf g c), e.cls ≠ .recall) ∨ (∃ w ∈ s.waitsOf (carOf g c), w.permit.cls ≠ .recall) →
        (.link (.group g), .refuse b .cancelled) ∈ t.outbox) ∧
      (x.unpermitted = false → (.link (.group g), .order c .stopNow 0) ∈ t.outbox ∧
        (s.panelLink.up = true → (.link .panel, .alert (.unpermitted (carOf g c) x.position)) ∈ t.outbox))) ∧
    (s.standby = false → s.Fresh → ∃ t, exec (.started g b) s = .next t ∧
      t.silent = { s with groupLinks := s.groupLinks.set g ⟨true, some (s.now + 60)⟩ }.silent) ∧
    ∀ i k, i = .arrived g b k ∨ (∃ cause, i = .halted g b k cause) →
      ∃ t y, exec i s = .next t ∧ t.car (carOf g c) = some y ∧ y.attempts = x.attempts ∧ y.unpermitted = false ∧ y.run = none ∧
        y.position.map Fin.val = (if k.toNat < 128 then some k.toNat else none) ∧
        y.between = (if k.toNat < 128 then false else x.between) ∧
        (x.motion.isOut = true → y.motion = x.motion) ∧
        (s.phase.serves = false → x.motion = .still ∨ x.motion = .stranded →
          y.motion = if k.toNat < 128 then .still else .stranded) ∧
        (s.Fresh → x.unpermitted = false → k.toNat < 128 → ∀ cls dest, cls ≠ .recall →
          (∃ e, s.entriesOf (carOf g c) = [e] ∧ e.cls = cls ∧ e.destination = dest) ∨
            (∃ w, s.waitsOf (carOf g c) = [w] ∧ w.permit.cls = cls ∧ w.permit.destination = dest) →
          (dest.map Fin.val = some k.toNat → y.motion = .still ∧ t.entriesOf (carOf g c) = [] ∧ t.waitsOf (carOf g c) = [] ∧
            (.link (.group g), .refuse b .badLanding) ∈ t.outbox) ∧
          (dest.map Fin.val ≠ some k.toNat → y.motion = x.motion ∧ t.entriesOf (carOf g c) = s.entriesOf (carOf g c) ∧
            t.waitsOf (carOf g c) = s.waitsOf (carOf g c)))

/-! ### The power link -/

/-- SOURCE NORMAL in NORMAL has no effect but on its link (R8, R159). In every other phase it is the entry to NORMAL: the standby machinery
is cleared, every configured car is handed back (R9, R10), and each group link that is UP receives PHASE, then RESTORE of each saved
context, then RELEASE of each configured car, and nothing else; LOAD goes out with all totals 0 (R10, R157). -/
def Obligations.SourceNormal : Prop :=
  ∀ (s : State) (k : Byte), k.toNat < 2 →
    (s.phase = .normal → s.Fresh →
      ∃ t, exec (.source 0#8 k) s = .next t ∧ t.silent = { s with powerLink := ⟨true, some (s.now + 100)⟩ }.silent) ∧
    (s.phase ≠ .normal → s.Shaped → ∃ t, exec (.source 0#8 k) s = .next t ∧
      t.phase = .normal ∧ t.handshake = none ∧ t.preTimer = none ∧ t.takeover = none ∧ t.waiting = [] ∧ t.mark = none ∧
      (∀ g : GroupNo, t.requests[g] = [] ∧ t.accounts[g] = 0) ∧ t.serviceAccount = 0 ∧
      t.groupOrder = (List.finRange 6).filter (fun g => (s.table.groups[g]).configured) ∧
      t.window = .noWindow ∧ t.windowTimer = none ∧ t.tickTimer = none ∧ t.pacer = .halted ∧ t.pacerTimer = none ∧ t.staged = none ∧
      t.profile = s.staged.getD s.profile ∧ t.blHeld = true ∧ (t.bl, t.ml, t.rl) = (0, 0, 0) ∧ t.episode = .closed ∧
      t.offered = s.offered ∧ t.absorb = s.absorb ∧ t.selection = s.selection ∧ t.blocked = s.blocked ∧
      (∀ n : CarName, t.car n = (s.car n).map fun c =>
        { c with
          image := none, saved := none, order := some .release, step := .normal, attempts := 0, pending := none, dwell := none,
          noLanding := false, member := none, unpermitted := false, credit := none, run := none, planDue := false,
          motion := if c.motion = .requested ∨ c.motion = .granted ∨ c.motion.supervised = true then
            (if c.position.isSome = true ∧ c.between = false then .still else .stranded) else c.motion }) ∧
      (∀ g : GroupNo, t.outbox.filter (fun x => x.1 = .link (.group g)) =
        if (s.groupLinks[g]).up then
          (.link (.group g), .phase .normal .noWindow) ::
            ((groupCars g).filterMap fun n => ((s.car n).bind Car.saved).map fun x => (.link (.group g), .restore (numberOf n) x)) ++
            ((groupCars g).filterMap fun n => (s.car n).map fun _ => (.link (.group g), .order (numberOf n) .release 0))
        else []) ∧
      (.link .power, .load t.usable 0 0 0) ∈ t.outbox)

/-- SOURCE LOST in OUTAGE has no effect but on its link (R12). In every other phase it is the entry to OUTAGE: contexts are captured from
NORMAL alone; live runs are abandoned without refund, waiting permits cancelled with refund, the lists emptied, the totals 0, the pacer
HALTED; steps, attempts, accounts and group order are kept (R7, R11). -/
def Obligations.SourceLost : Prop :=
  ∀ (s : State) (k : Byte), k.toNat < 2 → s.Shaped → s.Coherent →
    (s.phase = .outage → s.Fresh →
      ∃ t, exec (.source 1#8 k) s = .next t ∧ t.silent = { s with powerLink := ⟨true, some (s.now + 100)⟩ }.silent) ∧
    (s.phase ≠ .outage → ∃ t, exec (.source 1#8 k) s = .next t ∧
      t.phase = .outage ∧ t.handshake = none ∧ t.preTimer = none ∧ t.takeover = none ∧ t.waiting = [] ∧ t.mark = none ∧
      (∀ g : GroupNo, t.requests[g] = [] ∧
        t.accounts[g] = s.accounts[g] - ((s.waiting.filter fun w => groupOf w.car = g).map fun w => w.permit.groupCharge).sum) ∧
      t.serviceAccount = s.serviceAccount - (s.waiting.map fun w => w.permit.serviceCharge).sum ∧ t.groupOrder = s.groupOrder ∧
      t.window = .noWindow ∧ t.windowTimer = none ∧ t.tickTimer = none ∧ t.pacer = .halted ∧ t.pacerTimer = none ∧ t.staged = none ∧
      t.profile = s.staged.getD s.profile ∧ t.blHeld = true ∧ (t.bl, t.ml, t.rl) = (0, 0, 0) ∧ t.episode = .closed ∧
      ∀ n c, s.car n = some c → ∃ y, t.car n = some y ∧ y.step = c.step ∧ y.attempts = c.attempts ∧ y.image = c.image ∧
        y.saved = (if s.phase = .normal then c.image else c.saved) ∧ y.run = none ∧ y.pending = none ∧ y.dwell = none ∧
        y.member = none ∧ y.unpermitted = false ∧ y.credit = none ∧
        y.motion = (if c.run.isSome then .stranded
          else if c.motion = .requested ∨ c.motion = .granted then
            (if c.position.isSome = true ∧ c.between = false then .still else .stranded)
          else c.motion) ∧
        (c.run.isSome = true → (s.groupLinks[groupOf n]).up = true →
          (.link (.group (groupOf n)), .order (numberOf n) .stopNow 0) ∈ t.outbox))

/-- SOURCE STANDBY in STARTUP, NORMAL and OUTAGE, and in PRE_TRANSFER after CLEAR or with remembered phase NORMAL, is the entry to TAKEOVER:
the clearing of R11, stage SETTLING with the standby settle time, ticks that run on or start, contexts captured from NORMAL alone (R5, R8,
R12, R14, R20, R71, R156); an asserted filtered strain then moves the HALTED pacer (R104, R116). BL, ML and RL are 0, steps are kept and no
episode is open; BL is held at 0 from here whatever phase is left (assumption 8). In TAKEOVER, RECALL and SERVICE it has no effect but on
its link (R17, R18). -/
def Obligations.SourceStandby : Prop :=
  ∀ (s : State) (k : Byte), k.toNat < 2 → s.Shaped → s.Coherent →
    (s.phase = .takeover ∨ s.phase = .recall ∨ s.phase = .service → s.Fresh →
      ∃ t, exec (.source 2#8 k) s = .next t ∧ t.silent = { s with powerLink := ⟨true, some (s.now + 100)⟩ }.silent) ∧
    (s.phase = .startup ∨ s.phase = .normal ∨ s.phase = .outage ∨
        (∃ h, s.handshake = some h ∧ (h.clearSent = true ∨ h.remembered = .normal)) →
      ∃ t, exec (.source 2#8 k) s = .next t ∧
        t.phase = .takeover ∧ t.takeover = some ⟨.settling, s.now + s.table.site.settleTime * 2⟩ ∧ t.handshake = none ∧
        t.preTimer = none ∧ t.waiting = [] ∧ t.mark = none ∧ t.window = .noWindow ∧ t.windowTimer = none ∧
        t.tickTimer = some (s.tickTimer.getD (s.now + 20)) ∧ t.staged = none ∧ t.profile = s.staged.getD s.profile ∧
        t.pacer = (if s.filtered then
          (match s.table.site.strainMode with | .note => .halted | .hold => .hold | .holdShed => .hold | .operator => .waitRestart)
          else .halted) ∧
        (∀ g : GroupNo, t.requests[g] = [] ∧
          t.accounts[g] = s.accounts[g] - ((s.waiting.filter fun w => groupOf w.car = g).map fun w => w.permit.groupCharge).sum) ∧
        (t.bl, t.ml, t.rl) = (0, 0, 0) ∧ t.blHeld = true ∧ t.episode = .closed ∧
        ∀ n c, s.car n = some c → ∃ y, t.car n = some y ∧ y.attempts = c.attempts ∧
          y.saved = (if s.phase = .normal then c.image else c.saved) ∧ y.run = none ∧ y.pending = none ∧ y.dwell = none ∧
          y.member = none ∧ y.unpermitted = false ∧ y.step = c.step ∧
          y.motion = (if c.run.isSome then .stranded
            else if c.motion = .requested ∨ c.motion = .granted then
              (if c.position.isSome = true ∧ c.between = false then .still else .stranded)
            else c.motion))

/-- SOURCE PRE_TRANSFER. In STARTUP and OUTAGE the part sends CLEAR at once and the phase stays (R5, R12). In NORMAL contexts are captured
and the handshake begins without orders (R8, R18, R151). In TAKEOVER, RECALL and SERVICE it begins with the pacer HALTED; waiting permits
are cancelled with refund, the SERVICE and FIRE ones with REFUSE CANCELLED, the RECALL ones with a new entry of the origin's arrival time,
or, where the car stands at its recall landing, with the arrival effect (R43); runs in flight are curtailed, runs in GRACE kept; from RECALL
and SERVICE one LOAD goes out (R18, R151). An entry that finds the CLEAR condition holding sends CLEAR at once, and no pre-transfer timer
runs (R152). In PRE_TRANSFER before CLEAR it replaces the recorded kind and the condition is evaluated again, after CLEAR it has no effect
(R151, R152; CLEAR within the event, assumption 62). -/
def Obligations.SourcePreTransfer : Prop :=
  ∀ (s : State) (k : Byte) (kind : TransKind), kind.code = k.toNat → s.Shaped → s.Coherent → s.Fresh →
    (s.phase = .startup ∨ s.phase = .outage → ∃ t, exec (.source 3#8 k) s = .next t ∧
      t.silent = { s with powerLink := ⟨true, some (s.now + 100)⟩ }.silent ∧ (.link .power, .clear false kind 0) ∈ t.outbox) ∧
    (s.phase = .normal → ∃ t, exec (.source 3#8 k) s = .next t ∧
      t.phase = .preTransfer ∧ t.handshake = some ⟨.normal, s.clearHolds kind, kind, false⟩ ∧
      (s.clearHolds kind = false → t.preTimer = some (s.now + s.table.site.preTransferTime * 2)) ∧
      (s.clearHolds kind = true → t.preTimer = none ∧ (.link .power, .clear false kind 0) ∈ t.outbox) ∧
      t.tickTimer = some (s.now + 20) ∧ t.pacer = .halted ∧
      (∀ n, t.car n = (s.car n).map fun c => { c with saved := c.image }) ∧ ∀ x ∈ t.outbox, ∀ c o p, x.2 ≠ .order c o p) ∧
    (s.phase = .takeover ∨ s.phase = .recall ∨ s.phase = .service → ∃ t, exec (.source 3#8 k) s = .next t ∧
      t.phase = .preTransfer ∧
      t.handshake = some ⟨if s.phase = .takeover then .takeover else if s.phase = .recall then .recall else .service,
        s.clearHolds kind, kind, false⟩ ∧
      (s.clearHolds kind = false → t.preTimer = some (s.now + s.table.site.preTransferTime * 2)) ∧
      (s.clearHolds kind = true → t.preTimer = none ∧ (.link .power, .clear false kind 0) ∈ t.outbox) ∧ t.takeover = none ∧ t.window = .noWindow ∧ t.windowTimer = none ∧
      t.tickTimer = s.tickTimer ∧ t.pacer = .halted ∧ t.pacerTimer = none ∧ t.waiting = [] ∧
      (∀ g : GroupNo,
        t.accounts[g] = s.accounts[g] - ((s.waiting.filter fun w => groupOf w.car = g).map fun w => w.permit.groupCharge).sum) ∧
      (∀ w ∈ s.waiting, w.permit.cls ≠ .recall → t.entriesOf w.car = [] ∧ ((s.groupLinks[groupOf w.car]).up = true →
        (.link (.group (groupOf w.car)), .refuse (byteOf (numberOf w.car).val) .cancelled) ∈ t.outbox)) ∧
      (∀ w ∈ s.waiting, w.permit.cls = .recall → ∀ c d, s.car w.car = some c → c.unpermitted = false →
        d = (if c.between then none else c.position.bind fun p => s.recallLanding (groupOf w.car) p) →
        (c.position.isSome = true ∧ c.between = false → d.isSome = true) →
        (d.isSome = true ∧ d = c.position → t.entriesOf w.car = [] ∧ (t.car w.car).any (fun y => y.step = .dwell) = true) ∧
        (d = none ∨ d ≠ c.position → t.entriesOf w.car = [{
          car := w.car, cls := .recall, destination := d, trapped := c.occupied && !decide (c.door = .opened),
          arrival := w.permit.origin }])) ∧
      (∀ n c r, s.car n = some c → c.run = some r → ∃ y, t.car n = some y ∧ y.run = some r ∧ y.step = c.step ∧
        (r.state.inFlight = true → y.pending.any (fun x => x.kind ≠ .complete) = true ∧
          (c.pending.all (fun x => x.kind = .complete) = true → y.motion = .stopping ∧ ((s.groupLinks[groupOf n]).up = true →
            (.link (.group (groupOf n)), .order (numberOf n) .stopNext 0) ∈ t.outbox))) ∧
        (r.state.inFlight = false → y.motion = c.motion ∧ y.pending = c.pending)) ∧
      (s.phase ≠ .takeover → s.powerLink.up = true →
        t.outbox.filter (fun x => x.1 = .link .power) =
          s.clearSending t ++ [(.link .power, .load t.usable t.bl t.ml t.rl)])) ∧
    (∀ h, s.handshake = some h → s.powerLink.up = true → ∃ t, exec (.source 3#8 k) s = .next t ∧
      t.silent = { s with
        powerLink := ⟨true, some (s.now + 100)⟩,
        handshake := some (if h.clearSent then h else { h with kind := kind }) }.afterClear.silent ∧
      t.outbox = s.clearSending t)

/-- SOURCE TRANSFER_ABORT returns from PRE_TRANSFER to the remembered phase and removes the handshake state: to NORMAL by its entry, to
TAKEOVER by its clearing step, to RECALL or SERVICE with the windows afresh and the pacer out of HALTED as the strain and the trip allow
(R20, R77, R105, R118, R155). Where after the return's plans every configured car is OUT or in step PARKED, SHUT or GIVEN_UP, a RECALL ends
at once in SERVICE, in whose fills some may be released; else the phase is RECALL (R146, R148). On a return to RECALL or SERVICE each car whose plan has
waited, because it left OUT, was configured or was reclaimed during the stay, is planned by its step: entry, dwell, PARK, or no change (R31,
R137, R143; which cars these are is the field planDue), and so is each AWAITING one; a car parked in place that now has a recall landing is
planned from RECALL_DUE (R139, R155). In every other phase it has no effect but on its link. A
SOURCE of any phase whose source state or transition kind is outside its codes is discarded: nothing changes but the link's silence timer
(R2, R161). -/
def Obligations.SourceAbort : Prop :=
  (∀ (s : State) (x k : Byte), 4 < x.toNat ∨ 1 < k.toNat → s.Fresh → s.powerLink.up = true ∨ s.handshake = none →
    ∃ t, exec (.source x k) s = .next t ∧ t.silent = { s with powerLink := ⟨true, some (s.now + 100)⟩ }.silent) ∧
  ∀ (s : State) (k : Byte), k.toNat < 2 → s.Shaped →
    (s.phase ≠ .preTransfer → s.Fresh →
      ∃ t, exec (.source 4#8 k) s = .next t ∧ t.silent = { s with powerLink := ⟨true, some (s.now + 100)⟩ }.silent) ∧
    ∀ h, s.handshake = some h →
      ∃ t, exec (.source 4#8 k) s = .next t ∧ t.handshake = none ∧ t.preTimer = none ∧
        (h.remembered = .normal → t.phase = .normal ∧ ∀ n c, t.car n = some c → c.saved = none ∧ c.order = some .release) ∧
        (h.remembered = .takeover → t.phase = .takeover ∧ t.takeover = some ⟨.settling, s.now + s.table.site.settleTime * 2⟩ ∧
          (t.bl, t.ml, t.rl) = (0, 0, 0) ∧ t.waiting = []) ∧
        (h.remembered = .recall → t.phase = .recall ∧ s.RecallStaysOpen t ∨
          t.phase = .service ∧ t.window = .recallWindow ∧ t.RecallEnds) ∧
        (h.remembered = .service → t.phase = .service) ∧
        (t.phase = .service → t.window = .recallWindow ∧ t.windowTimer = some (s.now + s.table.site.recallLength * 20)) ∧
        (h.remembered = .recall ∨ h.remembered = .service → s.Coherent → ∀ n c, s.car n = some c → c.AtRest →
          (s.FreedFromPlace n c → s.SentToRecall t n c.place c.trappedNow s.now ∧ t.StaysIfDue n) ∧
          (¬ s.FreedFromPlace n c → c.planDue = true ∨ c.step = .awaiting → s.Planned t n c s.now)) ∧
        (h.remembered = .recall ∨ h.remembered = .service → t.tickTimer = s.tickTimer ∧
          t.pacer = if s.trip = true ∨ s.filtered = true ∧ s.table.site.strainMode ≠ .note then
              (if s.table.site.strainMode = .operator then .waitRestart else .hold)
            else if s.profile.settleA = 0 then .openA else .settleA)

/-- CAPACITY replaces both capacities, each clamped to 4000, clears the silence clamp and recomputes the derived figures; of the control
state nothing else changes (R55, R56). One that repeats the figures in force sends nothing (R55). PROFILE is clamped field by field; it
becomes the staged profile while the cycle runs, and the active one at once in HALTED, HOLD and WAIT_RESTART, with the step and peak
allowances that follow from it (R56, R111, R112). -/
def Obligations.CapacityAndProfile : Prop :=
  (∀ (s : State) (o a : BitVec 16), s.powerLink.up = true ∨ s.handshake = none →
    (∃ t, exec (.capacity o a) s = .next t ∧ t.offered = min o.toNat 4000 ∧ t.absorb = min a.toNat 4000 ∧ t.clamp = false ∧
      t.usable = min t.offered s.table.site.eMax ∧ t.absorbRoom = t.absorb + t.bl ∧
      t.stepMax = t.usable * s.profile.stepPercent / 100 ∧ t.peak = t.usable + t.usable * s.profile.overloadPercent / 100 ∧
      t.control.lasting =
        { s.control.heard .power with offered := min o.toNat 4000, absorb := min a.toNat 4000, clamp := false }.lasting) ∧
    (s.Fresh → s.powerLink.up = true → s.clamp = false → o.toNat = s.offered → a.toNat = s.absorb → s.offered ≤ 4000 → s.absorb ≤ 4000 →
      ∃ t, exec (.capacity o a) s = .next t ∧ t.silent = { s with powerLink := ⟨true, some (s.now + 100)⟩ }.silent ∧ t.outbox = [])) ∧
  ∀ (s : State) (b : ProfileBytes) (p : Profile), s.powerLink.up = true ∨ s.handshake = none →
    p = { mode := if b.mode = 1#8 then .split else .unified, settleA := b.settleA.toNat, openA := max 1 b.openA.toNat,
          settleB := b.settleB.toNat, openB := max 1 b.openB.toNat, stepPercent := max 10 (min 60 b.stepPercent.toNat),
          overloadPercent := min 25 b.overloadPercent.toNat } →
    ∃ t, exec (.profile b) s = .next t ∧
      (s.pacer = .settleA ∨ s.pacer = .openA ∨ s.pacer = .settleB ∨ s.pacer = .openB →
        t.control.lasting = { s.control.heard .power with staged := some p }.lasting) ∧
      (s.pacer = .halted ∨ s.pacer = .hold ∨ s.pacer = .waitRestart →
        t.control.lasting = { s.control.heard .power with profile := p, staged := none }.lasting ∧
        t.stepMax = t.usable * p.stepPercent / 100 ∧ t.peak = t.usable + t.usable * p.overloadPercent / 100)

/-! ### The panel link -/

/-- SELECT is refused for a group that is not configured and for a car that is absent or not listed, the group first where both hold (the
model's choice, assumption 39), and then changes no selection; else it replaces the group's selection in every phase, and outside SERVICE
nothing else (R147). In SERVICE, NONE leaves the group no ORDINARY and no POWERING member (R147, R149); CAR c, where no permit of the group
waits, releases a PARKED and STILL c that is no member, as an ORDINARY member in step SERVICE with RELEASE, and sends POWER_UP to a SHUT one
that is not OUT, or OUT (UNPOWERED), as a POWERING member, where no episode is open and BL + ML + I is within E; else it passes it by
(R148). AUTO, while the set is short of the service count, releases the first car of the release order that is PARKED and STILL and no
member, where those before it are neither PARKED nor SHUT; and no such car is left while the set is short (R147, R148). A member that is no
candidate under the new selection leaves the set by its motion, where the supply is not over-committed (R149). An ORDINARY one that is STILL,
REQUESTED or GRANTED receives PARK; its entry is removed, or its permit cancelled with refund, with REFUSE CANCELLED, and it comes to rest;
it is PARKED, or SHUT under shut-when-parked, or, still with its fire flag set, released as FIRE_RELEASED (R148, R150). One with a run
keeps it in step SERVICE, and its pending record holds PARK_AFTER and RECLAIM_AFTER, of kind COMPLETE where it had none. A STRANDED one is
RECALL_DUE with STAY and a locate entry, or under unpermitted motion without one (R134). A POWERING one stays SHUT with its order, and a
FIRE_RELEASED one stays as it is (R147). -/
def Obligations.SelectSetsGroup : Prop :=
  (∀ (s : State) (b x : Byte) (why : RefusedReason),
    (∀ g : GroupNo, b.toNat = g.val → (s.table.groups[g]).configured = false) ∧ why = .noGroup ∨
      (∃ g : GroupNo, b.toNat = g.val ∧ (s.table.groups[g]).configured = true ∧
        (9 < x.toNat ∨ ∃ c : CarNo, x.toNat = c.val ∧ s.car (carOf g c) = none)) ∧ why = .noCar →
    ∃ t, exec (.select b x) s = .next t ∧ t.selection = s.selection ∧ (.link .panel, .refused 0x40#8 why) ∈ t.outbox ∧
      s.Spares t none) ∧
  ∀ (s : State) (b x : Byte) (g : GroupNo) (sel : Selection), s.Fresh → b.toNat = g.val → (s.table.groups[g]).configured = true →
    (x.toNat = 8 ∧ sel = .auto ∨ x.toNat = 9 ∧ sel = .nobody ∨
      ∃ c : CarNo, x.toNat = c.val ∧ sel = .car c ∧ (s.car (carOf g c)).isSome = true) →
    ∃ t, exec (.select b x) s = .next t ∧ t.selection = s.selection.set g sel ∧
      (s.phase ≠ .service →
        t.silent = { s with selection := s.selection.set g sel, panelLink := ⟨true, some (s.now + 60)⟩ }.silent) ∧
      (s.phase = .service → sel = .nobody →
        ∀ n c, groupOf n = g → t.car n = some c → c.member = none ∨ c.member = some .fireReleased) ∧
      (s.phase = .service → (∀ w ∈ s.waiting, groupOf w.car ≠ g) → ∀ c y, sel = .car c → s.car (carOf g c) = some y →
        y.step = .parked → y.motion = .still → y.member = none →
        ∃ z, t.car (carOf g c) = some z ∧ z.step = .service ∧ z.member = some .ordinary ∧ z.motion = .still ∧
          z.order = some .release ∧ ((s.groupLinks[g]).up = true → (.link (.group g), .order c .release 0) ∈ t.outbox)) ∧
      (s.phase = .service → (∀ w ∈ s.waiting, groupOf w.car ≠ g) → ∀ c y, sel = .car c → s.car (carOf g c) = some y →
        y.step = .shut → y.motion.isOut = false ∨ y.motion = .out .unpowered → y.member = none →
        ∃ z, t.car (carOf g c) = some z ∧ z.step = .shut ∧ z.motion = y.motion ∧
          if s.episode = .closed ∧ s.bl + s.ml + (s.table.cars[carOf g c]).i ≤ s.usable then
            z.member = some .powering ∧ z.order = some .powerUp ∧ z.credit = none ∧
              ((s.groupLinks[g]).up = true → (.link (.group g), .order c .powerUp 0) ∈ t.outbox)
          else z.member = none ∧ z.order = y.order ∧ z.credit = y.credit) ∧
      (s.phase = .service → (∀ w ∈ s.waiting, groupOf w.car ≠ g) → sel = .auto →
        (∀ c z, c.val ∈ (s.table.groups[g]).releaseOrder → t.car (carOf g c) = some z → z.step = .parked → z.motion = .still →
          z.member = none → (s.table.groups[g]).serviceCount ≤ t.setCount g) ∧
        ∀ before after c y, (s.table.groups[g]).releaseOrder = before ++ c.val :: after → s.car (carOf g c) = some y →
          (∀ k z, k.val ∈ before → s.car (carOf g k) = some z → z.step ≠ .parked ∧ z.step ≠ .shut) → y.step = .parked → y.motion = .still →
          y.member = none → s.setCount g < (s.table.groups[g]).serviceCount →
          ∃ z, t.car (carOf g c) = some z ∧ z.step = .service ∧ z.member = some .ordinary ∧ z.motion = .still ∧
            z.order = some .release ∧ ((s.groupLinks[g]).up = true → (.link (.group g), .order c .release 0) ∈ t.outbox)) ∧
      (s.phase = .service → s.Shaped → s.Coherent → s.overCommitted = false → ∀ c y, s.car (carOf g c) = some y →
        sel = .nobody ∨ (∃ k, sel = .car k ∧ k ≠ c) ∨ sel = .auto ∧ c.val ∉ (s.table.groups[g]).releaseOrder →
        ∃ z, t.car (carOf g c) = some z ∧ (y.member = some .fireReleased → z = y) ∧
          (y.member = some .powering → z = { y with member := none }) ∧
          (y.member = some .ordinary →
            (y.motion = .still ∨ y.motion = .requested ∨ y.motion = .granted →
              t.entriesOf (carOf g c) = [] ∧ t.waitsOf (carOf g c) = [] ∧
              (∀ w ∈ s.waitsOf (carOf g c), t.accounts[g] ≤ s.accounts[g] - w.permit.groupCharge) ∧
              ((s.groupLinks[g]).up = true → (.link (.group g), .order c .park (s.table.groups[g]).parkDoors.code) ∈ t.outbox ∧
                (y.motion ≠ .still → (.link (.group g), .refuse (byteOf c.val) .cancelled) ∈ t.outbox)) ∧
              z.motion = (if y.motion = .still ∨ y.position.isSome = true ∧ y.between = false then .still else .stranded) ∧
              if y.fire = true ∧ z.motion = .still then z.step = .service ∧ z.member = some .fireReleased ∧ z.order = some .release
              else z.member = none ∧
                if (s.table.groups[g]).shutWhenParked = true then z.step = .shut ∧ z.order = some .shut
                else z.step = .parked ∧ z.order = some (.park (s.table.groups[g]).parkDoors)) ∧
            (y.motion = .starting ∨ y.motion = .running ∨ y.motion = .stopping → z.run = y.run ∧ z.motion = y.motion ∧
              z.step = .service ∧ z.member = none ∧ z.order = y.order ∧
              z.pending.any (fun a => a.flags.parkAfter && a.flags.reclaimAfter) = true ∧
              (y.pending = none →
                z.pending = y.run.map fun r => ⟨.complete, ⟨true, true, false⟩, r.permit.cls, r.permit.destination⟩)) ∧
            (y.motion = .stranded → z.step = .recallDue ∧ z.member = none ∧ z.order = some .stay ∧
              ((s.groupLinks[g]).up = true → (.link (.group g), .order c .stay 0) ∈ t.outbox) ∧
              (y.unpermitted = false → z.motion = .requested ∧ t.entriesOf (carOf g c) = [{
                car := carOf g c, cls := .recall, destination := none, trapped := y.occupied && !decide (y.door = .opened),
                arrival := s.now / 2 }]) ∧
              (y.unpermitted = true → z.motion = .stranded ∧ t.entriesOf (carOf g c) = []))))

/-- BLOCK and UNBLOCK are refused for a group that is not configured and a value that is no landing, the group first where both hold (the
model's choice, assumption 39), BLOCK also with FULL at 8 landings; else the landing joins or leaves the group's set (R139). In RECALL,
SERVICE and PRE_TRANSFER a BLOCK turns a RECALL entry for that landing to the recall landing now given, with its arrival time kept, and a
car in DWELL there becomes RECALL_DUE with STAY and an entry; it cancels a waiting RECALL permit for it with refund, and a new entry with
the origin's arrival time takes its place, or, where the car stands at the landing now given, a dwell (R43); an admitted one receives
CURTAIL with REREQUEST_AFTER, and no attempt is counted (R140). Where both landings of a car are blocked, the car with such an entry or
dwell is parked in place: PARK, the no-landing mark, ALERT NO_RECALL_LANDING (R138). In RECALL and SERVICE an UNBLOCK turns a RECALL entry
to the recall landing now given, or, where the car stands at that, makes it dwell without a run (R43), and plans a car parked in place anew:
RECALL_DUE with an entry for the recall landing now given, where that is another (R139). -/
def Obligations.BlockUnblock : Prop :=
  (∀ (s : State) (b l : Byte) (why : RefusedReason),
    (∀ g : GroupNo, b.toNat = g.val → (s.table.groups[g]).configured = false) ∧ why = .noGroup ∨
      (∃ g : GroupNo, b.toNat = g.val ∧ (s.table.groups[g]).configured = true ∧ 128 ≤ l.toNat) ∧ why = .noLanding →
    (∃ t, exec (.block b l) s = .next t ∧ t.blocked = s.blocked ∧ (.link .panel, .refused 0x41#8 why) ∈ t.outbox) ∧
    ∃ t, exec (.unblock b l) s = .next t ∧ t.blocked = s.blocked ∧ (.link .panel, .refused 0x42#8 why) ∈ t.outbox) ∧
  ∀ (s : State) (b k : Byte) (g : GroupNo) (l : Landing), b.toNat = g.val → k.toNat = l.val → (s.table.groups[g]).configured = true →
    (∃ t, exec (.block b k) s = .next t ∧
      (l ∈ s.blocked[g] → t.blocked = s.blocked ∧ s.Spares t none) ∧
      (l ∉ s.blocked[g] → 8 ≤ (s.blocked[g]).length →
        t.blocked = s.blocked ∧ (.link .panel, .refused 0x41#8 .full) ∈ t.outbox ∧ s.Spares t none) ∧
      (l ∉ s.blocked[g] → (s.blocked[g]).length < 8 → t.blocked = s.blocked.set g (s.blocked[g] ++ [l]) ∧
        (s.phase = .recall ∨ s.phase = .service ∨ s.phase = .preTransfer → ∀ c y p d, s.car (carOf g c) = some y →
          y.position = some p → t.recallLanding g p = some d →
          (∀ e, s.entriesOf (carOf g c) = [e] → e.cls = .recall → e.destination = some l → (d ≠ p ∨ y.between = true) →
            t.entriesOf (carOf g c) = [{ e with destination := some d }]) ∧
          (y.step = .dwell → p = l → y.between = false → y.motion.isOut = false → y.run = none → y.unpermitted = false →
            s.entriesOf (carOf g c) = [] → s.waitsOf (carOf g c) = [] →
            ∃ z, t.car (carOf g c) = some z ∧ z.step = .recallDue ∧ z.dwell = none ∧ z.order = some .stay ∧ z.motion = .requested ∧
              t.entriesOf (carOf g c) = [{
                car := carOf g c, cls := .recall, destination := some d, trapped := y.occupied && !decide (y.door = .opened),
                arrival := s.now / 2 }]) ∧
          (∀ w, s.waitsOf (carOf g c) = [w] → w.permit.cls = .recall → w.permit.destination = some l → y.run = none →
            s.entriesOf (carOf g c) = [] → y.between = false → y.unpermitted = false →
            t.waitsOf (carOf g c) = [] ∧ t.accounts[g] ≤ s.accounts[g] - w.permit.groupCharge ∧
            ∃ z, t.car (carOf g c) = some z ∧
              (d = p → z.step = .dwell ∧ z.motion = .still ∧ t.entriesOf (carOf g c) = [] ∧
                z.dwell = some (s.now + (s.table.groups[g]).dwellTime * 20)) ∧
              (d ≠ p → z.motion = .requested ∧ t.entriesOf (carOf g c) = [{
                car := carOf g c, cls := .recall, destination := some d, trapped := y.occupied && !decide (y.door = .opened),
                arrival := w.permit.origin }])) ∧
          (∀ run, y.run = some run → run.permit.cls = .recall → run.permit.destination = some l → y.step = .recalling → y.pending = none →
            s.entriesOf (carOf g c) = [] → s.waitsOf (carOf g c) = [] →
            ∃ z, t.car (carOf g c) = some z ∧ z.run = y.run ∧ z.attempts = y.attempts ∧ z.step = y.step ∧
              z.pending = some ⟨.curtail, ⟨false, false, true⟩, .recall, some l⟩ ∧
              (run.state.inFlight = true → z.motion = .stopping ∧
                ((s.groupLinks[g]).up = true → (.link (.group g), .order c .stopNext 0) ∈ t.outbox)) ∧
              (run.state.inFlight = false → z.motion = y.motion))) ∧
        (s.phase = .recall ∨ s.phase = .service ∨ s.phase = .preTransfer → s.Fresh → s.Shaped → s.Coherent → s.overCommitted = false → ∀ c y p,
          s.car (carOf g c) = some y → y.position = some p → t.recallLanding g p = none → y.between = false → y.unpermitted = false →
          y.run = none → s.waitsOf (carOf g c) = [] →
          (∃ e, s.entriesOf (carOf g c) = [e] ∧ e.cls = .recall ∧ e.destination = some l) ∨
            s.entriesOf (carOf g c) = [] ∧ y.step = .dwell ∧ p = l ∧ y.motion = .still →
          t.entriesOf (carOf g c) = [] ∧
          ((s.groupLinks[g]).up = true → (.link (.group g), .order c .park (s.table.groups[g]).parkDoors.code) ∈ t.outbox) ∧
          (s.panelLink.up = true → ∃ first second, (.link .panel, .alert (.noRecallLanding (carOf g c) p first second)) ∈ t.outbox ∧
            first ∈ t.blocked[g] ∧ second ∈ t.blocked[g]) ∧
          ∃ z, t.car (carOf g c) = some z ∧ z.motion = .still ∧ z.dwell = none ∧
            (s.phase = .preTransfer ∨
                s.phase = .recall ∧ y.fire = false ∧ (∃ m x, groupOf m ≠ g ∧ s.car m = some x ∧ x.motion.isOut = false ∧
                  x.step ≠ .parked ∧ x.step ≠ .shut ∧ x.step ≠ .givenUp) ∨
                s.phase = .service ∧ y.fire = false ∧ s.selection[g] = .nobody ∧ (s.table.groups[g]).shutWhenParked = false →
              z.step = .parked ∧ z.noLanding = true ∧ z.order = some (.park (s.table.groups[g]).parkDoors))))) ∧
    ∃ t, exec (.unblock b k) s = .next t ∧
      t.blocked = (if l ∈ s.blocked[g] then s.blocked.set g ((s.blocked[g]).filter fun x => x ≠ l) else s.blocked) ∧
      (l ∈ s.blocked[g] → s.phase = .recall ∨ s.phase = .service → ∀ c y p d, s.car (carOf g c) = some y → y.position = some p →
        t.recallLanding g p = some d →
        (y.step = .recallDue → ∀ e, s.entriesOf (carOf g c) = [e] → e.cls = .recall → e.destination.isSome = true →
          (d ≠ p ∨ y.between = true ∨ e.destination = some d → t.entriesOf (carOf g c) = [{ e with destination := some d }]) ∧
          (d = p → y.between = false → e.destination ≠ some d → t.entriesOf (carOf g c) = [] ∧
            ∃ z, t.car (carOf g c) = some z ∧ z.step = .dwell ∧ z.motion = .still)) ∧
        (y.noLanding = true → y.step = .parked → y.member = none → y.motion = .still → y.between = false → y.run = none →
          y.unpermitted = false → s.entriesOf (carOf g c) = [] → s.waitsOf (carOf g c) = [] → d ≠ p →
          ∃ z, t.car (carOf g c) = some z ∧ z.noLanding = false ∧ z.step = .recallDue ∧ z.order = some .stay ∧ z.motion = .requested ∧
            t.entriesOf (carOf g c) = [{
              car := carOf g c, cls := .recall, destination := some d, trapped := y.occupied && !decide (y.door = .opened),
              arrival := s.now / 2 }]))

/-- RESTART in WAIT_RESTART with trip and filtered strain both clear is a resume, to SETTLE_A, or to HALTED in TAKEOVER; with either
asserted it is answered by ALERT WAIT_RESTART and changes nothing; in every other pacer state it is ignored, without an answer (R110, R119).
-/
def Obligations.RestartResumes : Prop :=
  ∀ (s u : State) (k : Byte), s.Shaped → s.Fresh → u = { s with panelLink := ⟨true, some (s.now + 60)⟩ } →
    ∃ t, exec (.restart k) s = .next t ∧
      (s.pacer ≠ .waitRestart → t.silent = u.silent ∧ (s.panelLink.up = true → t.outbox = [])) ∧
      (s.pacer = .waitRestart → s.trip = true ∨ s.filtered = true →
        t.silent = u.silent ∧ (.link .panel, .alert (.waitRestart k s.trip s.filtered)) ∈ t.outbox) ∧
      (s.pacer = .waitRestart → s.trip = false → s.filtered = false →
        (s.phase = .takeover → t.silent = { u with pacer := .halted, pacerTimer := none, admitted := false }.silent) ∧
        (s.phase ≠ .takeover → 0 < s.profile.settleA →
          t.silent = { u with pacer := .settleA, pacerTimer := some (s.now + s.profile.settleA * 2), admitted := false }.silent) ∧
        (s.phase ≠ .takeover → s.profile.settleA = 0 →
          t.silent = { u with
            pacer := .openA, admitted := false,
            pacerTimer := if s.profile.mode = PaceMode.split then some (s.now + s.profile.openA * 2) else none }.silent))

/-- RETRY is refused for an absent car, in STARTUP, NORMAL and OUTAGE, and for a car neither GIVEN_UP nor OUT (RUN_TIMEOUT). Accepted, it
sets the attempts count to 0; a GIVEN_UP car becomes AWAITING with STAY (while SETTLING too, assumption 61), and in RECALL and SERVICE is
planned: to a dwell at its recall landing, else to an entry for it, in place where it has none, and to a locate entry where it is stranded. A car
OUT (RUN_TIMEOUT) leaves OUT by the rest test, and in RECALL and
SERVICE is planned by its step: at a landing a car on its way to recall like one AWAITING, a car PARKED or in step SERVICE to PARK; a
stranded one to a locate entry (R31, R137, R144). -/
def Obligations.RetryPlans : Prop :=
  (∀ (s : State) (b : Byte) (why : RefusedReason),
    (∀ n : CarName, b.toNat = n.val → s.car n = none) ∧ why = .noCar ∨
      (∃ (n : CarName) (c : Car), b.toNat = n.val ∧ s.car n = some c ∧
        if s.phase = .startup ∨ s.phase = .normal ∨ s.phase = .outage then why = .phase
        else c.step ≠ .givenUp ∧ c.motion ≠ .out .runTimeout ∧ why = .notGivenUp) →
    ∃ t, exec (.retry b) s = .next t ∧ (.link .panel, .refused 0x44#8 why) ∈ t.outbox ∧ s.Spares t none) ∧
  ∀ (s : State) (b : Byte) (n : CarName) (c : Car), b.toNat = n.val → s.car n = some c →
    s.phase = .takeover ∨ s.phase = .preTransfer ∨ s.phase = .recall ∨ s.phase = .service →
    c.step = .givenUp ∨ c.motion = .out .runTimeout → s.HoldsNoPermit n →
    ∃ t y, exec (.retry b) s = .next t ∧ t.car n = some y ∧ y.attempts = 0 ∧
      (s.phase = .takeover ∨ s.phase = .preTransfer →
        (c.step = .givenUp → y.step = .awaiting ∧ y.order = some .stay) ∧
        y.motion = (if c.motion = .out .runTimeout then
          (if c.position.isSome = true ∧ c.between = false then .still else .stranded) else c.motion)) ∧
      (s.phase = .recall ∨ s.phase = .service → c.step = .givenUp → c.motion.isOut = false ∨ c.motion = .out .runTimeout →
        c.unpermitted = false → ∀ p d, c.position = some p → c.between = false → s.recallLanding (groupOf n) p = some d →
        (p = d → y.step = .dwell ∧ y.dwell = some (s.now + (s.table.groups[groupOf n]).dwellTime * 20)) ∧
        (p ≠ d → y.step = .recallDue ∧ y.motion = .requested ∧
          ((s.groupLinks[groupOf n]).up = true → (.link (.group (groupOf n)), .order (numberOf n) .stay 0) ∈ t.outbox) ∧
          t.entriesOf n = [{
            car := n, cls := .recall, destination := some d, trapped := c.occupied && !decide (c.door = .opened),
            arrival := s.now / 2 }])) ∧
      (s.Coherent → s.phase = .recall ∨ s.phase = .service → c.step = .givenUp → s.entriesOf n = [] →
        c.AtRest ∨ c.motion = .out .runTimeout ∧ c.unpermitted = false →
        s.SentToRecall t n c.place c.trappedNow s.now ∧ t.Told n .stay 0) ∧
      (s.phase = .recall ∨ s.phase = .service → c.motion = .out .runTimeout → c.unpermitted = false → s.entriesOf n = [] →
        (c.step = .awaiting ∨ c.step = .recallDue ∨ c.step = .recalling ∨ c.step = .dwell → c.between = false → ∀ p d,
          c.position = some p → s.recallLanding (groupOf n) p = some d →
          (p = d → y.step = .dwell ∧ y.motion = .still ∧ t.entriesOf n = [] ∧
            y.dwell = some (s.now + (s.table.groups[groupOf n]).dwellTime * 20)) ∧
          (p ≠ d → y.step = .recallDue ∧ y.motion = .requested ∧
            (c.step = .recalling ∨ c.step = .dwell → (s.groupLinks[groupOf n]).up = true →
              (.link (.group (groupOf n)), .order (numberOf n) .stay 0) ∈ t.outbox) ∧
            t.entriesOf n = [{
              car := n, cls := .recall, destination := some d, trapped := c.occupied && !decide (c.door = .opened),
              arrival := s.now / 2 }])) ∧
        (c.step = .parked ∨ c.step = .service → c.between = false → c.position.isSome = true →
          y.motion = .still ∧ t.entriesOf n = [] ∧ ((s.groupLinks[groupOf n]).up = true →
            (.link (.group (groupOf n)), .order (numberOf n) .park (s.table.groups[groupOf n]).parkDoors.code) ∈ t.outbox)) ∧
        (c.step ≠ .shut → c.step ≠ .normal → c.between = true ∨ c.position = none →
          y.step = .recallDue ∧ y.motion = .requested ∧ t.entriesOf n = [{
            car := n, cls := .recall, destination := none, trapped := c.occupied && !decide (c.door = .opened),
            arrival := s.now / 2 }]) ∧
        (c.step = .shut ∨ c.step = .normal →
          y.motion = if c.position.isSome = true ∧ c.between = false then .still else .stranded))

/-! ### The maintenance port -/

/-- TABLE_WRITE in STARTUP and NORMAL, with values that are an encoding of the section named, is answered TABLE_DONE and replaces that section
of the pending image and nothing else: every other section, and its stored form as TABLE_READ gives it, is as it was. What a car or site
section then reads back by TABLE_READ of PENDING is what was written, and a group section reads back so where its zone places in use and its
flag bits are all that was set. Values that are no encoding, and a number that names no section, are refused with FORMAT; in any other phase
a write is refused with PHASE. TABLE_READ answers TABLE_DATA with the section's values in effect (source 0) or pending (source 1), in every
phase, and FORMAT for a number that names no section or for another source; it changes nothing (R163; tests by assumptions 10 and 19). -/
def Obligations.TableWriteRead : Prop :=
  (∀ (s : State) (k : Byte) (v : List Byte), s.Fresh →
    (s.phase ≠ .startup → s.phase ≠ .normal → ∃ t, exec (.tableWrite k v) s = .next t ∧ t.silent = s.silent ∧
      t.outbox = [(.maintenance, .tableRefused 0x50#8 .phase (SectionName.ofByte k))]) ∧
    (s.phase = .startup ∨ s.phase = .normal → SectionName.ofByte k = none → ∃ t, exec (.tableWrite k v) s = .next t ∧
      t.silent = s.silent ∧ t.outbox = [(.maintenance, .tableRefused 0x50#8 .format none)]) ∧
    ∀ sec, SectionName.ofByte k = some sec → s.phase = .startup ∨ s.phase = .normal →
      (¬ sec.Encodes v → s.pendingImage.write sec v = none ∧ ∃ t, exec (.tableWrite k v) s = .next t ∧ t.silent = s.silent ∧
        t.outbox = [(.maintenance, .tableRefused 0x50#8 .format (some sec))]) ∧
      (sec.Encodes v → ∃ img t u, s.pendingImage.write sec v = some img ∧ exec (.tableWrite k v) s = .next t ∧
        t.silent = { s with pendingImage := img }.silent ∧ t.outbox = [(.maintenance, .tableDone sec)] ∧
        (∀ x, x ≠ sec → img.read x = s.pendingImage.read x) ∧ (sec ≠ .site → img.site = s.pendingImage.site) ∧
        (∀ g : GroupNo, sec ≠ .group g → img.groups[g] = s.pendingImage.groups[g]) ∧
        (∀ n : CarName, sec ≠ .car n → img.cars[n] = s.pendingImage.cars[n]) ∧
        exec (.tableRead k 1#8) t = .next u ∧ u.silent = t.silent ∧
        ((∀ g, sec = .group g → ((v.getD 42 0#8).toNat < 4 ∧
            ∀ i < 16, (v.getD 3 0#8).toNat * 4 ≤ i → (v.getD (4 + i) 0#8).toNat = 0)) →
          u.outbox = [(.maintenance, .tableData sec v)]))) ∧
  ∀ (s : State) (k x : Byte), s.Fresh → ∃ t, exec (.tableRead k x) s = .next t ∧ t.silent = s.silent ∧
    t.outbox = [(.maintenance,
      match SectionName.ofByte k with
      | none => .tableRefused 0x52#8 .format none
      | some sec =>
        if x.toNat = 0 then .tableData sec (s.table.read sec)
        else if x.toNat = 1 then .tableData sec (s.pendingImage.read sec)
        else .tableRefused 0x52#8 .format (some sec))]

/-- What a commit examines: the seven items of R164 in their order, with the ranges of section 12.7. An image passes where no item fails;
else the reason is that of the first item that fails, with a section in which it fails: the one of the lowest number, but for
CLIP_BELOW_LIMIT the groups before the site section (the model's choice, assumption 20). CLIP is tested of the configured groups, as item 3
of R164 says, though R70 says any group (assumption 68). -/
def Obligations.CommitChecks : Prop :=
  ∀ (img : Image) (on : GroupNo → Prop) (fails : TableReason → Option SectionName → Prop),
    (∀ g, on g ↔ (img.groups[g]).configured = true) →
    (∀ x, fails .range x ↔
      x = some .site ∧ ¬ (∃ y, img.site = y ∧ 1 ≤ y.eMax ∧ y.eMax ≤ 4000 ∧ y.eFallback ≤ 4000 ∧ 1 ≤ y.attempts ∧ y.attempts ≤ 3 ∧
        20 ≤ y.settleTime ∧ y.settleTime ≤ 300 ∧ 50 ≤ y.preTransferTime ∧ y.preTransferTime ≤ 600 ∧ 5 ≤ y.recallLength ∧
        y.recallLength ≤ 255 ∧ 5 ≤ y.serviceLength ∧ y.serviceLength ≤ 255 ∧ y.holdBack ≤ 255 ∧ y.filterTime ≤ 15 ∧
        y.blankingTime ≤ 50 ∧ y.svcRatio ≤ 255 ∧ y.svcLimit ≤ 65535 ∧ y.svcClip ≤ 65535 ∧ 1 ≤ y.svcDecr ∧ y.svcDecr ≤ 255 ∧
        y.profile.settleA ≤ 255 ∧ 1 ≤ y.profile.openA ∧ y.profile.openA ≤ 255 ∧ y.profile.settleB ≤ 255 ∧ 1 ≤ y.profile.openB ∧
        y.profile.openB ≤ 255 ∧ 10 ≤ y.profile.stepPercent ∧ y.profile.stepPercent ≤ 60 ∧ y.profile.overloadPercent ≤ 25) ∨
      (∃ g, x = some (.group g) ∧ ¬ ∃ y, img.groups[g] = y ∧ y.lowest ≤ 127 ∧ y.highest ≤ 127 ∧ y.zoneCount ≤ 4 ∧
        (∀ z ∈ y.zonePlaces.take y.zoneCount, z.low ≤ 127 ∧ z.high ≤ 127 ∧ z.primary ≤ 127 ∧ z.alternate ≤ 127) ∧
        y.defaultPrimary ≤ 127 ∧ y.defaultAlternate ≤ 127 ∧ 10 ≤ y.dwellTime ∧ y.dwellTime ≤ 120 ∧ y.serviceCount ≤ 8 ∧
        (∀ c ∈ y.releaseOrder, c ≤ 7) ∧ 10 ≤ y.tBase ∧ y.tBase ≤ 60 ∧ 1 ≤ y.tFloor ∧ y.tFloor ≤ 10 ∧ y.ratio ≤ 255 ∧
        y.limit ≤ 65535 ∧ y.clip ≤ 65535 ∧ 1 ≤ y.decr ∧ y.decr ≤ 255) ∨
      ∃ n, x = some (.car n) ∧ ¬ ∃ y, img.cars[n] = y ∧ 1 ≤ y.m ∧ y.m ≤ 400 ∧ 100 ≤ y.k ∧ y.k ≤ 300 ∧ y.reff ≤ 90 ∧ 30 ≤ y.b ∧
        y.b ≤ 55 ∧ y.i ≤ 15) →
    (∀ x, fails .noGroup x ↔ x = none ∧ (∀ g, ¬ on g) ∨
      (∃ g, x = some (.group g) ∧ on g ∧ ∀ n, groupOf n = g → (img.cars[n]).configured = false) ∨
      ∃ n, x = some (.car n) ∧ (img.cars[n]).configured = true ∧ ¬ on (groupOf n)) →
    (∀ x, fails .clipBelowLimit x ↔ (∃ g, x = some (.group g) ∧ on g ∧ (img.groups[g]).clip < (img.groups[g]).limit) ∨
      x = some .site ∧ img.site.svcClip < img.site.svcLimit) →
    (∀ x, fails .servedRange x ↔ ∃ g, x = some (.group g) ∧ on g ∧ (img.groups[g]).highest < (img.groups[g]).lowest) →
    (∀ x, fails .zone x ↔ ∃ g y, x = some (.group g) ∧ on g ∧ img.groups[g] = y ∧ ∃ z ∈ y.zonePlaces.take y.zoneCount,
      z.high < z.low ∨ ∃ l ∈ [z.low, z.high, z.primary, z.alternate], l < y.lowest ∨ y.highest < l) →
    (∀ x, fails .recallLanding x ↔ ∃ g y, x = some (.group g) ∧ on g ∧ img.groups[g] = y ∧
      ∃ l ∈ [y.defaultPrimary, y.defaultAlternate], l < y.lowest ∨ y.highest < l) →
    (∀ x, fails .releaseOrder x ↔ ∃ g, x = some (.group g) ∧ on g ∧
      ((∃ c ∈ (img.groups[g]).releaseOrder, ∀ k : CarNo, k.val = c → (img.cars[carOf g k]).configured = false) ∨
        ¬ (img.groups[g]).releaseOrder.Nodup)) →
    ∀ items : List TableReason,
      items = [.range, .noGroup, .clipBelowLimit, .servedRange, .zone, .recallLanding, .releaseOrder] →
      (img.firstFailure = none ↔ ∀ why ∈ items, ∀ x, ¬ fails why x) ∧
      ∀ why x, img.firstFailure = some (why, x) → fails why x ∧
        (∃ passed rest, items = passed ++ why :: rest ∧ ∀ y ∈ passed, ∀ z, ¬ fails y z) ∧
        ∀ a b, x = some a → fails why (some b) →
          if why = .clipBelowLimit then b = .site ∨ a ≠ .site ∧ a.number.toNat ≤ b.number.toNat else a.number.toNat ≤ b.number.toNat

/-- TABLE_COMMIT stores a pending image that passes every item of R164 with its CRC-16, and puts it in effect: records configured or absent
as it names them, group order ascending, its profile active, the figures recomputed; a device reset then finds it in effect, or, where it
falls during the write, a check value that does not match (R164, R165; how long the write lasts is a free value, assumption 55). An image
that fails is refused with the reason and the section, and in any phase but STARTUP and NORMAL the commit with PHASE; then nothing changes
(R163). -/
def Obligations.TableCommit : Prop :=
  ∀ (s : State), s.Fresh →
    (s.phase ≠ .startup → s.phase ≠ .normal → ∃ t, exec (.tableCommit 0#8) s = .next t ∧ t.silent = s.silent ∧
      t.outbox = [(.maintenance, .tableRefused 0x51#8 .phase none)]) ∧
    (s.phase = .startup ∨ s.phase = .normal → ∀ why sec, s.pendingImage.firstFailure = some (why, sec) →
      ∃ t, exec (.tableCommit 0#8) s = .next t ∧ t.silent = s.silent ∧ t.outbox = [(.maintenance, .tableRefused 0x51#8 why sec)]) ∧
    (s.phase = .startup ∨ s.phase = .normal → s.pendingImage.firstFailure = none →
      ∃ t, exec (.tableCommit 0#8) s = .next t ∧ (.maintenance, .tableCommitted) ∈ t.outbox ∧
        t.stored = some ⟨s.pendingImage, crc16 s.pendingImage.contents⟩ ∧ t.table = s.pendingImage ∧ t.fallback = none ∧
        t.pendingImage = s.pendingImage ∧ t.groupOrder = (List.finRange 6).filter (fun g => (s.pendingImage.groups[g]).configured) ∧
        t.profile = s.pendingImage.site.profile ∧ t.staged = none ∧ t.usable = min s.offered s.pendingImage.site.eMax ∧
        (∀ n : CarName, (t.car n).isSome = (s.pendingImage.cars[n]).configured) ∧
        (∀ n c, s.car n = some c → (s.pendingImage.cars[n]).configured = true → t.body n = some c.body) ∧
        t.written = some s.now ∧ ∀ d, ∃ u, exec .deviceReset { t with now := t.now + d } = .next u ∧
          (Config.tearsWrite d = false → u.stored = t.stored ∧ u.table = s.pendingImage ∧ u.fallback = none) ∧
          (Config.tearsWrite d = true → u.table = fallbackImage ∧ u.fallback = some (.check, none)))

/-! ### Frames and links -/

/-- A dropped frame that is good restarts the silence timer of its link with 5.0 s on the power link and 3.0 s on the others, and makes a
DOWN link UP; a bad one, and any on the maintenance port, changes nothing (R158, R159). On a link that is UP a good frame sends nothing. The
return of a group link sends PHASE (R4), the standing orders of its cars in ascending car number with the remaining time of a running dwell
(R35), and QUERY while a collection runs (R15); that of the panel link PHASE, a summary of every configured car (R39), ALERT TRIP and
WAIT_RESTART where they stand (R121), and CONFIG_FALLBACK under the fallback table (R165); that of the power link LOAD (R63), then the CLEAR
that awaits it (R153). -/
def Obligations.DroppedFrame : Prop :=
  ∀ (s : State) (l : LinkId) (bytes : List Byte), s.Fresh →
    ∃ t u, exec (.droppedFrame (.link l) bytes) s = .next t ∧
      (isGood bytes = true →
        t.control = { s.control.heard l with handshake := t.handshake, preTimer := t.preTimer } ∧ t.cars = s.cars ∧
        t.requests = s.requests ∧ t.waiting = s.waiting ∧
        (l ≠ .power ∨ s.powerLink.up = true ∨ s.phase ≠ .preTransfer → t.handshake = s.handshake ∧ t.preTimer = s.preTimer) ∧
        (s.linkUp l = true → t.outbox = []) ∧
        (∀ g, l = .group g → (s.groupLinks[g]).up = false → t.outbox.map Prod.snd = .phase s.phase s.window ::
          (groupCars g).filterMap (fun n => (s.car n).bind fun c => c.order.map fun o =>
            match o with
            | .stay => .order (numberOf n) .stay 0
            | .openDwell rest => .order (numberOf n) .openDwell ((match c.dwell with | some e => e - s.now | none => rest) / 2)
            | .park doors => .order (numberOf n) .park doors.code
            | .shut => .order (numberOf n) .shut 0
            | .powerUp => .order (numberOf n) .powerUp 0
            | .release => .order (numberOf n) .release 0) ++
          (if s.takeover.any (fun x => x.stage = .collecting) then [.query] else []) ∧ ∀ m ∈ t.outbox, m.1 = .link (.group g)) ∧
        (l = .panel → s.panelLink.up = false → t.outbox.map Prod.snd = .phase s.phase s.window ::
          (List.finRange 48).filterMap (fun n => (s.car n).map fun c => .car (s.summary n c)) ++
          (if s.trip then [.alert (.trip 0 0 s.pacer)] else []) ++
          (if s.pacer = .waitRestart then [.alert (.waitRestart 0#8 s.trip s.filtered)] else []) ++
          (s.fallback.toList.map fun why => .alert (.configFallback why)) ∧ ∀ m ∈ t.outbox, m.1 = .link .panel) ∧
        (l = .power → s.powerLink.up = false → ∃ rest, t.outbox = (.link .power, .load s.usable s.bl s.ml s.rl) :: rest ∧
          ((s.phase = .preTransfer → s.handshake = none) → rest = []) ∧
          ∀ h, s.phase = .preTransfer → s.handshake = some h →
            if h.clearSent = false ∧ s.clearCondition h.kind = true then
              rest = [(.link .power, .clear false h.kind 0)] ∧ t.handshake = some { h with clearSent := true } ∧ t.preTimer = none
            else if h.clearSent = false ∧ h.expired = true then
              rest = [(.link .power, .clear true h.kind s.movingCount)] ∧ t.handshake = some { h with clearSent := true }
            else rest = [] ∧ t.handshake = s.handshake ∧ t.preTimer = s.preTimer)) ∧
      (isGood bytes = false → t.silent = s.silent ∧ t.outbox = []) ∧
      exec (.droppedFrame .maintenance bytes) s = .next u ∧ u.silent = s.silent ∧ u.outbox = []

/-- When its silence timer runs out a link becomes DOWN with its timer idle (R159). For a group link the group's SERVICE and FIRE entries
go, its waiting permits are cancelled with refund, a RECALL one with a new entry of the origin's arrival time, or, where the car stands at
its recall landing, with the arrival effect (R43), and its runs in flight enter GRACE for 10.0 s with cause LINK (R87, R135). In RECALL,
SERVICE, TAKEOVER and PRE_TRANSFER ALERT LINK_LOST goes to the panel with the group and the numbers of those runs and permits (R135). For
the power link the capacities are clamped in a standby phase and kept in every other (R57). For the panel link nothing else follows (R159).
-/
def Obligations.SilenceExpiry : Prop :=
  (∀ (s : State) (g : GroupNo) (e : Nat), s.Coherent → (s.groupLinks[g]).silence = some e →
    ∃ t, exec (.silenceTimerExpiry (.group g)) s = .next t ∧ t.groupLinks = s.groupLinks.set g ⟨false, none⟩ ∧
      (∀ x ∈ t.requests[g], x.cls = .recall) ∧ (∀ w ∈ t.waiting, groupOf w.car ≠ g) ∧
      t.accounts[g] = s.accounts[g] - ((s.waiting.filter fun w => groupOf w.car = g).map fun w => w.permit.groupCharge).sum ∧
      (∀ w ∈ s.waiting, groupOf w.car = g → w.permit.cls = .recall → ∀ c d, s.car w.car = some c → c.unpermitted = false →
        d = (if c.between then none else c.position.bind fun p => s.recallLanding g p) →
        (c.position.isSome = true ∧ c.between = false → d.isSome = true) →
        (d.isSome = true ∧ d = c.position → t.entriesOf w.car = [] ∧ (t.car w.car).any (fun y => y.step = .dwell) = true) ∧
        (d = none ∨ d ≠ c.position → t.entriesOf w.car = [{
          car := w.car, cls := .recall, destination := d, trapped := c.occupied && !decide (c.door = .opened),
          arrival := w.permit.origin }])) ∧
      (s.phase = .recall ∨ s.phase = .service ∨ s.phase = .takeover ∨ s.phase = .preTransfer → s.panelLink.up = true →
        (.link .panel, .alert (.linkLost g
          ((List.finRange 8).filter fun c => ((s.car (carOf g c)).bind Car.run).any fun r => r.state.inFlight).length
          (s.waiting.filter fun w => groupOf w.car = g).length)) ∈ t.outbox) ∧
      (∀ n c r, groupOf n = g → s.car n = some c → c.run = some r → ∃ y, t.car n = some y ∧ y.motion = c.motion ∧ y.pending = c.pending ∧
        y.run = some (if r.state.inFlight then { r with state := .grace .linkLost (max s.now e + 200) } else r))) ∧
  (∀ (s : State) (e : Nat), s.powerLink.silence = some e →
    ∃ t, exec (.silenceTimerExpiry .power) s = .next t ∧ t.powerLink = ⟨false, none⟩ ∧
      (s.standby = true → t.offered = min s.offered s.table.site.eFallback ∧ t.absorb = 0 ∧ t.clamp = true ∧
        t.usable = min t.offered s.table.site.eMax ∧ t.absorbRoom = t.bl) ∧
      (s.standby = false → t.offered = s.offered ∧ t.absorb = s.absorb ∧ t.clamp = s.clamp)) ∧
  ∀ (s : State) (e : Nat), s.Fresh → s.panelLink.silence = some e →
    ∃ t, exec (.silenceTimerExpiry .panel) s = .next t ∧ t.silent = { s with now := max s.now e, panelLink := ⟨false, none⟩ }.silent

/-! ### The lines -/

/-- The filtered strain. An assertion of the line that finds it clear and no blanking starts the filter, or with filter time 0 asserts it at
once; its release stops the filter and clears it, and gives a pacer in HOLD a resume when no trip holds; while blanking runs the line is
only read at its end (R114, R115, R118). Asserted in a standby phase, with the filter's end, it sends DISTRESS and moves the pacer as the
strain mode says; elsewhere it is only recorded (R116). In PRE_TRANSFER a release that makes the CLEAR condition hold sends CLEAR (R152). -/
def Obligations.StrainFollowsLine : Prop :=
  ∀ (s : State), s.Fresh → s.Shaped →
    (s.strainLine = false → s.blankTimer.isSome = true ∨ s.filtered = true →
      ∃ t, exec .strainAsserted s = .next t ∧ t.silent = { s with strainLine := true }.silent) ∧
    (s.strainLine = false → s.blankTimer = none → s.filtered = false → 0 < s.table.site.filterTime →
      ∃ t, exec .strainAsserted s = .next t ∧
        t.silent = { s with strainLine := true, filterTimer := some (s.now + s.table.site.filterTime) }.silent) ∧
    (s.strainLine = false → s.blankTimer = none → s.filtered = false → s.table.site.filterTime = 0 → s.standby = false →
      ∃ t, exec .strainAsserted s = .next t ∧ t.silent = { s with strainLine := true, filterTimer := none, filtered := true }.silent) ∧
    (s.blankTimer.isSome = true → ∃ t, exec .strainReleased s = .next t ∧ t.silent = { s with strainLine := false }.silent) ∧
    (s.blankTimer = none → s.filtered = false ∨ s.pacer ≠ .hold ∨ s.trip = true →
      ∃ t, exec .strainReleased s = .next t ∧
        t.silent = { s with strainLine := false, filterTimer := none, filtered := false }.afterClear.silent ∧
        t.outbox = s.clearSending t) ∧
    (s.blankTimer = none → s.filtered = true → s.pacer = .hold → s.trip = false → s.phase ≠ .takeover → 0 < s.profile.settleA →
      ∃ t, exec .strainReleased s = .next t ∧
        t.silent = { s with
          strainLine := false, filterTimer := none, filtered := false, pacer := .settleA, admitted := false,
          pacerTimer := some (s.now + s.profile.settleA * 2) }.silent) ∧
    (∀ e, s.blankTimer = some e →
      (s.strainLine = false → ∃ t, exec .blankingTimerExpiry s = .next t ∧
        t.silent = { s with now := max s.now e, blankTimer := none }.silent) ∧
      (s.strainLine = true → s.filtered = false → 0 < s.table.site.filterTime → ∃ t, exec .blankingTimerExpiry s = .next t ∧
        t.silent = { s with
          now := max s.now e, blankTimer := none, filterTimer := some (max s.now e + s.table.site.filterTime) }.silent)) ∧
    ∀ e, s.filterTimer = some e →
      (s.standby = false → ∃ t, exec .filterTimerExpiry s = .next t ∧
        t.silent = { s with now := max s.now e, filterTimer := none, filtered := true }.silent) ∧
      (s.standby = true → ∃ t, exec .filterTimerExpiry s = .next t ∧ t.filtered = true ∧ t.filterTimer = none ∧
        (s.panelLink.up = true → (.link .panel, .alert (.distress s.table.site.strainMode s.pacer)) ∈ t.outbox ∧
          (s.table.site.strainMode = .operator → (.link .panel, .alert (.waitRestart 0#8 s.trip true)) ∈ t.outbox)) ∧
        t.pacer = (match s.table.site.strainMode with
          | .note => s.pacer
          | .operator => if s.pacer = .halted ∧ s.phase ≠ .takeover then .halted else .waitRestart
          | _ => if s.pacer = .halted ∧ s.phase ≠ .takeover then .halted
            else if s.pacer = .waitRestart then .waitRestart else .hold) ∧
        (s.table.site.strainMode = .holdShed → ∀ n c r, s.car n = some c → c.run = some r → r.permit.cls = .service →
          r.state.inFlight = true → c.pending = none → ∃ y, t.car n = some y ∧ y.run = some r ∧ y.motion = .stopping ∧
            y.pending = some ⟨.curtail, ⟨false, false, false⟩, .service, r.permit.destination⟩))

/-- A TRIP abandons every run in STARTED-WAIT or RUNNING: STOP_NOW, no refund, STRANDED, and a RECALLING car of a RECALL run RECALL_DUE;
runs in GRACE stay. It cancels every waiting permit with refund, SERVICE and FIRE with REFUSE CANCELLED, RECALL with a new entry of the
origin's arrival time, or, where the car stands at its recall landing, with the arrival effect (R43); it gives the pacer a wait or a hold
order; it sends ALERT TRIP with the counts and one LOAD (R120, R121, R131, R142). The release of the line clears the trip state; a pacer in
HOLD resumes where the filtered strain is clear too, every other pacer stays (R118, R121). In PRE_TRANSFER an assertion or a release that
makes the CLEAR condition hold sends CLEAR (R152, R154; before LOAD, assumption 62). -/
def Obligations.TripAbandons : Prop :=
  (∀ (s : State), s.Coherent → s.Shaped → ∃ t, exec .tripAsserted s = .next t ∧
    t.trip = true ∧ t.tripLine = true ∧ t.waiting = [] ∧
    (∀ g : GroupNo,
      t.accounts[g] = s.accounts[g] - ((s.waiting.filter fun w => groupOf w.car = g).map fun w => w.permit.groupCharge).sum) ∧
    t.serviceAccount = s.serviceAccount - (s.waiting.map fun w => w.permit.serviceCharge).sum ∧
    (∀ n c r, s.car n = some c → c.run = some r → ∃ y, t.car n = some y ∧
      (r.state.inFlight = true → y.run = none ∧ y.motion = .stranded ∧ y.pending.any (fun x => x.kind = .abandon) = true ∧
        y.step = (if r.permit.cls = .recall ∧ c.step = .recalling then .recallDue else c.step) ∧
        ((s.groupLinks[groupOf n]).up = true → (.link (.group (groupOf n)), .order (numberOf n) .stopNow 0) ∈ t.outbox)) ∧
      (r.state.inFlight = false → y.run = some r ∧ y.motion = c.motion ∧ y.pending = c.pending)) ∧
    (∀ w ∈ s.waiting, w.permit.cls ≠ .recall → t.entriesOf w.car = [] ∧ ((s.groupLinks[groupOf w.car]).up = true →
      (.link (.group (groupOf w.car)), .refuse (byteOf (numberOf w.car).val) .cancelled) ∈ t.outbox)) ∧
    (∀ w ∈ s.waiting, w.permit.cls = .recall → ∀ c d, s.car w.car = some c → c.unpermitted = false →
      d = (if c.between then none else c.position.bind fun p => s.recallLanding (groupOf w.car) p) →
      (c.position.isSome = true ∧ c.between = false → d.isSome = true) →
      (d.isSome = true ∧ d = c.position → t.entriesOf w.car = [] ∧ (t.car w.car).any (fun y => y.step = .dwell) = true) ∧
      (d = none ∨ d ≠ c.position → t.entriesOf w.car = [{
        car := w.car, cls := .recall, destination := d, trapped := c.occupied && !decide (c.door = .opened),
        arrival := w.permit.origin }])) ∧
    t.pacer = (if s.pacer = .halted ∧ s.phase ≠ .takeover then .halted
      else if s.table.site.strainMode = .operator ∨ s.pacer = .waitRestart then .waitRestart else .hold) ∧
    (s.panelLink.up = true → (.link .panel, .alert (.trip
      ((List.finRange 48).filter fun n => ((s.car n).bind Car.run).any fun r => r.state.inFlight).length s.waiting.length t.pacer)) ∈ t.outbox) ∧
    (s.powerLink.up = true →
      t.outbox.filter (fun x => x.1 = .link .power) = s.clearSending t ++ [(.link .power, .load t.usable t.bl t.ml t.rl)]) ∧
    s.KeepsHandshake t) ∧
  ∀ (s : State), s.Fresh → s.Shaped → ∃ t, exec .tripReleased s = .next t ∧
    (s.pacer ≠ .hold ∨ s.filtered = true →
      t.silent = { s with tripLine := false, trip := false }.afterClear.silent ∧ t.outbox = s.clearSending t) ∧
    (s.pacer = .hold → s.filtered = false →
      (s.phase = .takeover →
        t.silent = { s with tripLine := false, trip := false, pacer := .halted, pacerTimer := none, admitted := false }.silent) ∧
      (s.phase ≠ .takeover → 0 < s.profile.settleA →
        t.silent = { s with
          tripLine := false, trip := false, pacer := .settleA, admitted := false,
          pacerTimer := some (s.now + s.profile.settleA * 2) }.silent))

/-! ### The takeover and the handshake -/

/-- When the settle timer ends, every configured car receives STAY, a car in step NORMAL becomes AWAITING, QUERY goes to every group that is
UP, and a collection of 3.0 s begins (R14). When that ends, a car that has not reported and is not OUT becomes OUT (LINK) or OUT (SILENT),
BL is the sum of I over the powered cars, the pacer leaves HALTED, LOAD goes out, and every other car that is not OUT is planned from its step by
the table of R137: on its way to recall to a dwell at its recall landing, else to RECALL_DUE with an entry, or in place; PARKED or in step
SERVICE at a landing to PARK; each of these stranded to a locate entry; GIVEN_UP to nothing (R15, R16, R105, R118, R137). A car parked in
place that now has a recall landing is planned from RECALL_DUE (R139). Every SHUT car is told SHUT again, OUT or not, and a PARKED car that is
OUT is told PARK; any other OUT car keeps step and order. What is said of a PARKED car holds where step 4 finds no over-commitment, which
would have it shut first (R64, R67). The phase becomes SERVICE where after the plans every
configured car is OUT or in step PARKED, SHUT or GIVEN_UP, with fills in which some may be released, and RECALL else (R16, R19, R146,
R148). -/
def Obligations.TakeoverSequence : Prop :=
  ∀ (s : State) (e m : Nat), s.Fresh → s.Shaped → m = max s.now e →
    (s.takeover = some ⟨.settling, e⟩ → ∃ t, exec .standbySettleExpiry s = .next t ∧
      t.takeover = some ⟨.collecting, m + 60⟩ ∧ t.phase = .takeover ∧
      (∀ n c, s.car n = some c → ∃ y, t.car n = some y ∧ y.order = some .stay ∧ y.reported = false ∧
        y.step = (if c.step = .normal then .awaiting else c.step) ∧
        ((s.groupLinks[groupOf n]).up = true → (.link (.group (groupOf n)), .order (numberOf n) .stay 0) ∈ t.outbox)) ∧
      ∀ g : GroupNo, (s.groupLinks[g]).up = true → (.link (.group g), .query) ∈ t.outbox) ∧
    (s.takeover = some ⟨.collecting, e⟩ → s.Coherent → ∃ t, exec .collectionTimerExpiry s = .next t ∧
      t.takeover = none ∧ t.blHeld = false ∧
      (t.phase = .recall ∧ s.RecallStaysOpen t ∨ t.phase = .service ∧ t.window = .recallWindow ∧ t.RecallEnds) ∧
      t.bl = ((List.finRange 48).map fun n => match t.car n with
        | some c => if c.powered = true ∧ c.motion ≠ .out .unpowered then (s.table.cars[n]).i else 0
        | none => 0).sum ∧
      (s.powerLink.up = true → (.link .power, .load t.usable t.bl t.ml t.rl) ∈ t.outbox) ∧
      t.pacer = (if s.pacer = .hold ∨ s.pacer = .waitRestart then s.pacer
        else if s.trip = true ∨ s.filtered = true ∧ s.table.site.strainMode ≠ .note then
          (if s.table.site.strainMode = .operator then .waitRestart else .hold)
        else if s.profile.settleA = 0 then .openA else .settleA) ∧
      ∀ n c, s.car n = some c → ∃ y, t.car n = some y ∧
        (c.motion.isOut = true → y.motion = c.motion) ∧
        (c.motion.isOut = false → c.reported = false →
          y.motion = .out (if (s.groupLinks[groupOf n]).up then .silent else .link)) ∧
        (c.motion.isOut = false → c.reported = true → c.AtRest → (c.step = .parked → t.bl + t.ml ≤ t.peak) →
          (s.FreedFromPlace n c → s.SentToRecall t n c.place c.trappedNow m ∧ t.StaysIfDue n) ∧
          (¬ s.FreedFromPlace n c → s.Planned t n c m) ∧
          (c.step = .parked → ¬ s.FreedFromPlace n c → c.place.isSome = true → t.phase = .recall → c.fire = false →
            y.step = .parked ∧ y.order = some (.park (s.table.groups[groupOf n]).parkDoors)) ∧
          (c.step = .service → c.place.isSome = true → t.phase = .recall → c.fire = false →
            y.step = .parked ∧ y.order = some (.park (s.table.groups[groupOf n]).parkDoors))) ∧
        (c.step = .givenUp → y.step = .givenUp ∧ y.order = c.order) ∧
        (c.step = .shut → y.step = .shut ∧ t.Told n .shut 0 ∧ (t.phase = .recall → y.order = some .shut)) ∧
        (c.step = .parked → c.motion.isOut = true ∨ c.reported = false → t.bl + t.ml ≤ t.peak →
          t.Told n .park (s.table.groups[groupOf n]).parkDoors.code ∧
            (t.phase = .recall → y.step = .parked ∧ y.order = some (.park (s.table.groups[groupOf n]).parkDoors))) ∧
        (c.motion.isOut = true ∨ c.reported = false → c.step ≠ .parked → c.step ≠ .shut → y.step = c.step ∧ y.order = c.order) ∧
        (c.motion = .still → c.reported = true → c.step = .awaiting → c.unpermitted = false → ∀ p d, c.position = some p →
          c.between = false → s.recallLanding (groupOf n) p = some d →
          (p = d → y.step = .dwell ∧ y.motion = .still ∧ y.dwell = some (m + (s.table.groups[groupOf n]).dwellTime * 20)) ∧
          (p ≠ d → y.step = .recallDue ∧ y.motion = .requested ∧ t.entriesOf n = [{
            car := n, cls := .recall, destination := some d, trapped := c.occupied && !decide (c.door = .opened),
            arrival := m / 2 }])))

/-- Whatever the command, after an event in PRE_TRANSFER that has not sent CLEAR, with the power link UP, the CLEAR condition fails; and
CLEAR counts as sent only from an event that has sent it: with the forced flag clear where the condition holds, else with the flag set, by
the pre-transfer timer or at the return of the power link (R151 to R154; within the event, assumption 62). The command CLEAR sends it with
the recorded kind exactly while the condition holds in PRE_TRANSFER, none has been sent in the stay and the power link is UP: no car holds
an admitted permit, shows the moving flag or is under an unpermitted-motion reservation, and for a CLOSED transition the filtered strain and
the trip are clear (R152). When the pre-transfer timer runs out first, CLEAR goes out with the forced flag and the count of such cars, or,
with the link DOWN, the expiry mark is set (R153). -/
def Obligations.ClearAndTimer : Prop :=
  (∀ (i : Instr) (s t : State) (h : Handshake), exec i s = .next t → s.Shaped → t.handshake = some h →
    (h.clearSent = false → t.powerLink.up = true → t.clearHolds h.kind = false) ∧
    (h.clearSent = true → (∀ x, s.handshake = some x → x.clearSent = false) → t.powerLink.up = true ∧ t.preTimer = none ∧
      (t.clearHolds h.kind = true ∧ (.link .power, .clear false h.kind 0) ∈ t.outbox ∨
        (i = .preTransferTimerExpiry ∨ s.powerLink.up = false) ∧ ∃ n, (.link .power, .clear true h.kind n) ∈ t.outbox))) ∧
  ∀ (s : State) (h : Handshake) (quiet : Prop) (count : Nat), s.Fresh → s.handshake = some h → s.phase = .preTransfer →
    (quiet ↔ (∀ n c, s.car n = some c → c.run = none ∧ c.moving = false ∧ c.unpermitted = false) ∧
      (h.kind = .closedTransition → s.filtered = false ∧ s.trip = false)) →
    count = ((List.finRange 48).filter fun n => (s.car n).any fun c => c.run.isSome || c.moving || c.unpermitted).length →
    (h.clearSent = false → s.powerLink.up = true → quiet → ∃ t, exec .clear s = .next t ∧
      t.silent = { s with handshake := some { h with clearSent := true }, preTimer := none }.silent ∧
      t.outbox = [(.link .power, .clear false h.kind 0)]) ∧
    (h.clearSent = true ∨ s.powerLink.up = false ∨ ¬ quiet → ∃ t, exec .clear s = .next t ∧ t.silent = s.silent ∧ t.outbox = []) ∧
    ∀ e, s.preTimer = some e → h.clearSent = false →
      (s.powerLink.up = true → ∃ t, exec .preTransferTimerExpiry s = .next t ∧
        t.silent = { s with now := max s.now e, preTimer := none, handshake := some { h with clearSent := true } }.silent ∧
        t.outbox = [(.link .power, .clear true h.kind count)]) ∧
      (s.powerLink.up = false → ∃ t, exec .preTransferTimerExpiry s = .next t ∧
        t.silent = { s with now := max s.now e, preTimer := none, handshake := some { h with expired := true } }.silent ∧ t.outbox = [])

/-! ### Accounts, windows and the pacer -/

/-- An account tick lowers every account by its own decrement, stopping at 0, and starts the next second; it changes nothing else (R71). A
window expiry changes the window to the other one with that one's length, and sends PHASE on every group link and the panel link that is UP,
and nothing else (R78, R79). -/
def Obligations.TickAndWindow : Prop :=
  ∀ (s : State) (e m : Nat), s.Fresh → m = max s.now e →
    (s.tickTimer = some e → ∃ t, exec .accountTick s = .next t ∧ t.outbox = [] ∧
      (∀ g : GroupNo, t.accounts[g] = s.accounts[g] - (s.table.groups[g]).decr) ∧
      t.silent = { s with
        now := m, accounts := t.accounts, serviceAccount := s.serviceAccount - s.table.site.svcDecr, tickTimer := some (m + 20) }.silent) ∧
    (s.windowTimer = some e → s.window ≠ .noWindow → ∃ t, exec .windowTimerExpiry s = .next t ∧
      t.silent = { s with
        now := m, window := if s.window = Window.recallWindow then .serviceWindow else .recallWindow,
        windowTimer := some (m + (if s.window = Window.recallWindow then s.table.site.serviceLength else s.table.site.recallLength) * 20) }.silent ∧
      t.outbox = (((List.finRange 6).filter fun g => (s.groupLinks[g]).up).map fun g =>
          (.link (.group g), .phase s.phase (if s.window = .recallWindow then .serviceWindow else .recallWindow))) ++
        (if s.panelLink.up then
          [(.link .panel, .phase s.phase (if s.window = .recallWindow then .serviceWindow else .recallWindow))] else []))

/-- The pacer's timers. SETTLE_A ends in OPEN_A, timed under SPLIT alone; OPEN_A of SPLIT ends in SETTLE_B, SETTLE_B in OPEN_B; OPEN_B ends
the cycle, where a staged profile becomes active and gives the settle that follows its length; a settle of 0.0 s is passed through (R106,
R107, R112). -/
def Obligations.PacerTimers : Prop :=
  ∀ (s : State) (e m : Nat) (p : Profile), s.pacerTimer = some e → m = max s.now e → s.Fresh → p = s.staged.getD s.profile →
    (s.pacer = .settleA → ∃ t, exec .settleAExpiry s = .next t ∧
      t.silent = { s with
        now := m, pacer := .openA, admitted := false,
        pacerTimer := if s.profile.mode = PaceMode.split then some (m + s.profile.openA * 2) else none }.silent) ∧
    (s.pacer = .openA → ∃ t, exec .openAExpiry s = .next t ∧
      t.silent = (if s.profile.settleB = 0 then
          { s with now := m, pacer := .openB, admitted := false, pacerTimer := some (m + s.profile.openB * 2) }
        else { s with now := m, pacer := .settleB, pacerTimer := some (m + s.profile.settleB * 2) }).silent) ∧
    (s.pacer = .settleB → ∃ t, exec .settleBExpiry s = .next t ∧
      t.silent = { s with now := m, pacer := .openB, admitted := false, pacerTimer := some (m + s.profile.openB * 2) }.silent) ∧
    (s.pacer = .openB → ∃ t, exec .openBExpiry s = .next t ∧ t.profile = p ∧ t.staged = none ∧ t.admitted = false ∧ t.now = m ∧
      t.stepMax = t.usable * p.stepPercent / 100 ∧ t.peak = t.usable + t.usable * p.overloadPercent / 100 ∧
      (0 < p.settleA → t.pacer = .settleA ∧ t.pacerTimer = some (m + p.settleA * 2)) ∧
      (p.settleA = 0 → t.pacer = .openA ∧ t.pacerTimer = if p.mode = .split then some (m + p.openA * 2) else none))

/-! ### Selection and shedding -/

/-- Over-commitment. When an event in a standby phase has changed E, A, BL, ML, RL, the peak limit or STEP_MAX, or has made a profile
active, the episode is open exactly where BL + ML exceeds the peak limit or RL exceeds A (R56, R64, R112). A CAPACITY that leaves a side
expected over sheds (R65): first the waiting SERVICE permits of that side, youngest grant first, with refund and REFUSE CANCELLED, the car
at rest (R66); then, while the motoring side alone is expected over, the PARKED powered cars outside the service set in ascending name, with
SHUT and a credit of I (R67; so too while SETTLING, assumption 58); then the SERVICE runs in flight of that side, youngest grant first, with
STOP_NEXT and a credit of D or G (R68). Each falls only while its side is still expected over, credits deducted. ALERT OVERCOMMIT goes out
where a side then still is, once in an episode, also in one opened with the panel link DOWN (R68, assumption 60), and names the sides over
by the actual totals (assumption 5). -/
def Obligations.OverCommitment : Prop :=
  (∀ (i : Instr) (s t : State), exec i s = .next t → i ≠ .deviceReset → t.standby = true →
    (t.usable, t.absorbRoom, t.bl, t.ml, t.rl, t.peak, t.stepMax) ≠ (s.usable, s.absorbRoom, s.bl, s.ml, s.rl, s.peak, s.stepMax) ∨
      t.staged = none ∧ (s.staged.isSome = true ∨ ∃ p, i = .profile p) →
    (t.episode ≠ .closed ↔ t.peak < t.bl + t.ml ∨ t.absorbRoom < t.rl)) ∧
  ∀ (s : State) (o a : BitVec 16) (e : Nat) (limit total left : Kind → Nat) (cut : Waiting → Bool) (shut stop : CarName → Bool)
      (beyond : Kind → Bool), s.Fresh → s.Shaped → s.Coherent → s.Numbered → s.standby = true →
    e = min (min o.toNat 4000) s.table.site.eMax → limit .motor = e + e * s.profile.overloadPercent / 100 →
    limit .regen = min a.toNat 4000 + s.bl → e ≠ s.usable ∨ limit .regen ≠ s.absorbRoom → total .motor = s.bl + s.ml → total .regen = s.rl →
    (∀ w, cut w = true ↔ w ∈ s.waiting ∧ w.permit.cls = .service ∧ limit w.permit.kind + s.credits w.permit.kind +
      s.sumWaiting (fun x => cut x && x.permit.kind = w.permit.kind && w.permit.serial < x.permit.serial) Permit.demand <
        total w.permit.kind) →
    (∀ k, left k = total k - s.sumWaiting (fun x => cut x && x.permit.kind = k) Permit.demand) →
    (∀ n, shut n = true ↔ ∃ c, s.car n = some c ∧ c.step = .parked ∧ c.member = none ∧ c.powered = true ∧ c.credit = none ∧
      left .regen ≤ limit .regen + s.credits .regen ∧
      limit .motor + s.credits .motor + s.sumCars (fun m _ => if shut m && m < n then (s.table.cars[m]).i else 0) < left .motor) →
    (∀ n, stop n = true ↔ ∃ c p, s.car n = some c ∧ c.servicePermit = some p ∧ c.credit = none ∧
      limit p.kind + s.credits p.kind +
        (if p.kind = .motor then s.sumCars fun m _ => if shut m then (s.table.cars[m]).i else 0 else 0) +
        s.sumCars (fun m x => match x.servicePermit with
          | some q => if stop m && q.kind = p.kind && p.serial < q.serial then q.demand else 0
          | none => 0) < left p.kind) →
    (∀ k, beyond k = true ↔ limit k + s.credits k +
      (if k = .motor then s.sumCars fun m _ => if shut m then (s.table.cars[m]).i else 0 else 0) +
      s.sumCars (fun m x => match x.servicePermit with
        | some q => if stop m && q.kind = k then q.demand else 0
        | none => 0) < left k) →
    ∃ t, exec (.capacity o a) s = .next t ∧ t.usable = e ∧ t.peak = limit .motor ∧ t.absorbRoom = limit .regen ∧ t.bl = s.bl ∧
      t.bl + t.ml = left .motor ∧ t.rl = left .regen ∧
      (∀ w ∈ s.waiting, (w ∈ t.waiting ↔ cut w = false) ∧ (cut w = true → t.entriesOf w.car = [] ∧
        (∀ c, s.car w.car = some c → (t.car w.car).map Car.motion =
          some (if c.position.isSome = true ∧ c.between = false then .still else .stranded)) ∧
        ((s.groupLinks[groupOf w.car]).up = true →
          (.link (.group (groupOf w.car)), .refuse (byteOf (numberOf w.car).val) .cancelled) ∈ t.outbox))) ∧
      (∀ g : GroupNo, t.accounts[g] = s.accounts[g] - s.sumWaiting (fun w => cut w && groupOf w.car = g) Permit.groupCharge) ∧
      t.serviceAccount = s.serviceAccount - s.sumWaiting cut Permit.serviceCharge ∧
      (∀ n c, s.car n = some c → ∃ y, t.car n = some y ∧
        (shut n = true → y.step = .shut ∧ y.order = some .shut ∧ y.credit = some ⟨.motor, (s.table.cars[n]).i⟩ ∧
          ((s.groupLinks[groupOf n]).up = true → (.link (.group (groupOf n)), .order (numberOf n) .shut 0) ∈ t.outbox)) ∧
        (∀ p, c.servicePermit = some p → stop n = true → y.motion = .stopping ∧ y.run = c.run ∧
          y.pending.any (fun x => x.kind = .curtail) = true ∧ y.credit = some ⟨p.kind, p.demand⟩ ∧
          ((s.groupLinks[groupOf n]).up = true → (.link (.group (groupOf n)), .order (numberOf n) .stopNext 0) ∈ t.outbox)) ∧
        (shut n = false → stop n = false → (c.credit = none → y.credit = none) ∧
          (c.run.isSome = true → y.run = c.run ∧ y.motion = c.motion ∧ y.pending = c.pending))) ∧
      t.episode = (if limit .motor < left .motor ∨ limit .regen < left .regen then
        .opened (s.episode = .opened true || beyond .motor || beyond .regen) else .closed) ∧
      (s.panelLink.up = true →
        ((.link .panel, .alert (.overcommit t.usable t.absorbRoom t.bl t.ml t.rl (limit .motor < left .motor)
          (limit .regen < left .regen))) ∈ t.outbox ↔ s.episode ≠ .opened true ∧ (beyond .motor = true ∨ beyond .regen = true)))

/-- The choice of a selection, where no mark comes in and pre-emption finds nothing to do, said of the first selection of a GRANT. The first
eligible FIRE candidate by arrival, then by its group's place in the order, then by list position is granted (R90); else the first eligible
candidate of the leading kind, and where that has none of the other kind, by budget, HIGH, recency, trapped flag, arrival and list position
(R89, R91, R92); a SERVICE choice of a group over budget with YIELD set gives way to the first eligible RECALL candidate (R92). Nothing else
is granted, and where no candidate is eligible nothing happens (R91). -/
def Obligations.GrantChoice : Prop :=
  ∀ (s : State) (first : RunClass → Entry → Prop), s.Fresh → s.Coherent → s.Bounded → s.Ordered → s.selects → s.mark = none →
    s.table.site.holdBack = 0 → s.NothingToPreempt →
    (∀ k e, first k e ↔ s.candidate e = true ∧ e.cls = k ∧ s.mayGrant e = true ∧
      ∀ x, s.candidate x = true → x.cls = k → s.mayGrant x = true →
        x = e ∨ if k = .fire then s.fireKeys e < s.fireKeys x else s.rankKeys e < s.rankKeys x) →
    (∀ e, first .fire e ∨ (∀ x, ¬ first .fire x) ∧ e.cls ≠ .fire ∧ first e.cls e ∧
        (e.cls = s.leadingKind ∧ ¬ (e.cls = .service ∧ (s.table.groups[groupOf e.car]).limit < s.accounts[groupOf e.car] ∧
            (s.table.groups[groupOf e.car]).yield = true ∧ ∃ x, first .recall x) ∨
          e.cls ≠ s.leadingKind ∧ (∀ x, ¬ first s.leadingKind x) ∨
          e.cls = .recall ∧ s.leadingKind = .service ∧ ∃ x, first .service x ∧
            (s.table.groups[groupOf x.car]).limit < s.accounts[groupOf x.car] ∧ (s.table.groups[groupOf x.car]).yield = true) →
      ∃ (t : State) (y : Car) (w : Waiting), exec .grant s = .next (t.selections 63) ∧ t.car e.car = some y ∧ y.motion = .granted ∧
        t.entriesOf e.car = [] ∧
        w ∈ t.waiting ∧ w.car = e.car ∧ w.permit.cls = e.cls ∧ w.permit.destination = e.destination ∧ w.permit.origin = e.arrival ∧
        (∀ x ∈ t.waiting, x ∈ s.waiting ∨ x = w) ∧ ∀ n, n ≠ e.car → t.entriesOf n = s.entriesOf n) ∧
    ((∀ k e, ¬ first k e) → ∃ t, exec .grant s = .next t ∧ t.silent = s.silent ∧ t.outbox = [])

/-- The starvation guard at the first selection of a GRANT, where pre-emption finds nothing to do. A selection without a FIRE grant places
the mark on the first candidate of the leading kind, where it is held by its checks and has waited longer than the hold-back time, and
grants nothing of its kind; a mark that stands stays while its entry is the first of its class ranking and held, with nothing of its kind
granted, and else goes; after a removal the same selection may place another (R94). At a FIRE grant a mark that stands is reviewed alike,
and none is placed (assumption 33). -/
def Obligations.MarkPlaced : Prop :=
  ∀ (s : State) (head : RunClass → Entry → Prop) (due : Entry → Prop) (fire : Prop), s.Fresh → s.Coherent → s.Bounded → s.Ordered →
    s.selects → s.table.site.holdBack ≠ 0 → s.NothingToPreempt →
    (∀ k e, head k e ↔ s.candidate e = true ∧ e.cls = k ∧
      ∀ x, s.candidate x = true → x.cls = k → x = e ∨ s.rankKeys e < s.rankKeys x) →
    (∀ e, due e ↔ head s.leadingKind e ∧ s.heldByChecks e = true ∧ s.table.site.holdBack * 10 < s.now / 2 - e.arrival) →
    (fire ↔ ∃ e, s.candidate e = true ∧ e.cls = .fire ∧ s.mayGrant e = true) →
    ∃ t : State, exec .grant s = .next (s.goesOn t) ∧
      (s.mark = none → fire → t.mark = none) ∧
      (s.mark = none → ¬ fire → ((∀ e, ¬ due e) → t.mark = none) ∧ ∀ e, due e → t.mark = some e.car ∧
        ∀ x, s.candidate x = true → x.cls = e.cls → t.entriesOf x.car = s.entriesOf x.car) ∧
      ∀ m, s.mark = some m.car → s.entriesOf m.car = [m] → m.cls ≠ .fire →
        (head m.cls m → s.heldByChecks m = true → t.mark = some m.car ∧
          ∀ x, s.candidate x = true → x.cls = m.cls → t.entriesOf x.car = s.entriesOf x.car) ∧
        (head m.cls m → s.mayGrant m = true → t.mark = none) ∧
        (¬ head m.cls m ∨ s.heldByChecks m = false ∧ s.mayGrant m = false →
          (fire ∨ (∀ e, ¬ due e) → t.mark = none) ∧ ∀ e, ¬ fire → due e → t.mark = some e.car)

/-- Pre-emption at the first selection of a GRANT for the one FIRE or RECALL candidate, held by its checks: for FIRE in every window, with
curtailment under mode RUNNING in RECALL and in RECALL_WINDOW (R96); for RECALL in RECALL_WINDOW by the mode (R95). Waiting SERVICE permits
of a helping kind are cancelled, youngest grant first, with refund and without REFUSE, and their entries return with the origin's arrival
time, FIRE or SERVICE by the fire flag, not to be granted in this selection (R97, assumption 54); then runs in flight are curtailed,
youngest first, with REREQUEST_AFTER. Each goes only while the candidate lacks what it frees, judged with the demand of pending curtailments
counted as freed (that this judges which kinds help is assumption 34). The candidate is granted exactly where the actual checks then pass.
-/
def Obligations.Preemption : Prop :=
  ∀ (s : State) (e : Entry) (f : Figures) (queued running : Prop) (ml rl : Nat) (out : Kind → Nat) (cut : Waiting → Bool)
      (stop : CarName → Bool), s.Fresh → s.Coherent → s.Bounded → s.Ordered → s.Numbered → s.selects → s.candidate e = true → e.cls ≠ .service →
    (∀ x, s.candidate x = true → x.cls ≠ .service → x = e) → s.figures e = some f → s.heldByChecks e = true →
    (queued ↔ e.cls = .fire ∨ s.window = .recallWindow ∧ s.table.site.preemption ≠ .off) →
    (running ↔ s.table.site.preemption = .running ∧ (s.window = .recallWindow ∨ e.cls = .fire ∧ s.phase = .recall)) →
    (∀ k, out k = s.sumCars fun _ c => match c.run, c.pending with
      | some r, some x => if x.kind = .curtail ∧ r.permit.cls = .service ∧ r.permit.kind = k then r.permit.demand else 0
      | _, _ => 0) →
    (∀ w, cut w = true ↔ queued ∧ w ∈ s.waiting ∧ w.permit.cls = .service ∧ s.lacks f
      (s.ml - out .motor - s.sumWaiting (fun x => cut x && x.permit.kind = .motor && w.permit.serial < x.permit.serial) Permit.demand)
      (s.rl - out .regen - s.sumWaiting (fun x => cut x && x.permit.kind = .regen && w.permit.serial < x.permit.serial) Permit.demand)
      w.permit.kind = true) →
    ml = s.ml - s.sumWaiting (fun x => cut x && x.permit.kind = .motor) Permit.demand →
    rl = s.rl - s.sumWaiting (fun x => cut x && x.permit.kind = .regen) Permit.demand →
    (∀ n, stop n = true ↔ running ∧ ∃ c p, s.car n = some c ∧ c.servicePermit = some p ∧ s.lacks f
      (ml - out .motor - s.sumCars (fun m x => match x.servicePermit with
          | some q => if stop m && q.kind = .motor && p.serial < q.serial then q.demand else 0
          | none => 0))
      (rl - out .regen - s.sumCars (fun m x => match x.servicePermit with
          | some q => if stop m && q.kind = .regen && p.serial < q.serial then q.demand else 0
          | none => 0))
      p.kind = true) →
    ∃ t : State, exec .grant s = .next (s.goesOn t) ∧ (∀ x ∈ t.outbox, ∀ b why, x.2 ≠ .refuse b why) ∧
      (∀ w ∈ s.waiting, (w ∈ t.waiting ↔ cut w = false) ∧ (cut w = true → ∀ c, s.car w.car = some c →
        (t.car w.car).map Car.motion = some .requested ∧
        t.entriesOf w.car = [{
          car := w.car, cls := if c.fire then .fire else .service, destination := w.permit.destination, trapped := false,
          arrival := w.permit.origin }])) ∧
      (∀ n c, s.car n = some c → c.run.isSome = true → ∃ y, t.car n = some y ∧ y.run = c.run ∧
        (stop n = true → y.motion = .stopping ∧ y.pending.any (fun x => x.kind = .curtail && x.flags.rerequestAfter) = true ∧
          ((s.groupLinks[groupOf n]).up = true → (.link (.group (groupOf n)), .order (numberOf n) .stopNext 0) ∈ t.outbox)) ∧
        (stop n = false → y.motion = c.motion ∧ y.pending = c.pending)) ∧
      (∀ g : GroupNo, (∀ x, s.candidate x = true → groupOf x.car ≠ g) →
        t.accounts[g] = s.accounts[g] - s.sumWaiting (fun w => cut w && groupOf w.car = g) Permit.groupCharge) ∧
      if s.lacks f ml rl .motor = false ∧ s.lacks f ml rl .regen = false then
        t.entriesOf e.car = [] ∧ (∃ w ∈ t.waiting, w.car = e.car ∧ w.permit.cls = e.cls ∧ w.permit.origin = e.arrival) ∧
          t.serviceAccount = s.serviceAccount - s.sumWaiting cut Permit.serviceCharge
      else t.entriesOf e.car = [e]

/-! ### Grant and admission -/

/-- The first grant of a GRANT, where no pre-emption and no mark comes in, the deferral slot is empty and neither side is over-committed;
more may follow it (R88). The chosen entry leaves its list and its car is GRANTED; the permit at the queue's tail has the figures, the
origin and the charges recorded; ML or RL rises by its demand and stays within E or A; the group and, for class SERVICE, the service account
are charged with the ratio unless above the clip; the group moves to the end of the order; a RECALL or FIRE grant may defer the SERVICE
permit at the head; LOAD goes out (R59, R61, R72, R76, R90 to R93, R101). Where R88 fails, nothing happens. -/
def Obligations.GrantMakesPermit : Prop :=
  (∀ s : State, s.Fresh → (s.phase ≠ .recall ∧ s.phase ≠ .service) ∨ s.pacer = .halted ∨ s.pacer = .hold ∨ s.pacer = .waitRestart ∨
      4 ≤ s.queue.length ∨ s.episode ≠ .closed →
    ∃ t, exec .grant s = .next t ∧ t.silent = s.silent ∧ t.outbox = []) ∧
  ∀ (s : State) (e : Entry) (f : Figures), s.Fresh → s.Coherent → s.Bounded → s.phase = .recall ∨ s.phase = .service →
    s.pacer = .settleA ∨ s.pacer = .openA ∨ s.pacer = .settleB ∨ s.pacer = .openB → s.queue.length < 4 → s.episode = .closed →
    s.slot = none → s.overCommitted = false → s.figures e = some f →
    s.fireRanking.head? = some e ∧ s.eligible e = true ∨
      s.fireRanking = [] ∧ s.mark = none ∧ s.table.site.holdBack = 0 ∧ (s.table.site.preemption = .off ∨ s.window ≠ .recallWindow) ∧
        s.choose s.leading = some e →
    ∃ (t : State) (w : Waiting) (y : Car), exec .grant s = .next (t.selections 63) ∧ t.car e.car = some y ∧ y.motion = .granted ∧
      t.entriesOf e.car = [] ∧
      (∀ n, n ≠ e.car → t.entriesOf n = s.entriesOf n) ∧
      w = ({
        car := e.car,
        permit := {
          cls := e.cls, kind := f.kind, demand := f.demand, start := f.start, units := f.units,
          groupCharge := t.accounts[groupOf e.car] - s.accounts[groupOf e.car],
          serviceCharge := t.serviceAccount - s.serviceAccount, destination := e.destination, floors := f.floors,
          grantTime := s.now / 2, origin := e.arrival, serial := s.grants } } : Waiting) ∧
      (let grp := s.table.groups[groupOf e.car]
       let old := s.accounts[groupOf e.car]
       t.accounts = s.accounts.set (groupOf e.car) (min 65535 (old + if grp.clip < old then f.units else f.units + grp.ratio))) ∧
      t.serviceAccount = (if e.cls = .service then
          min 65535 (s.serviceAccount + if s.table.site.svcClip < s.serviceAccount then f.units else f.units + s.table.site.svcRatio)
        else s.serviceAccount) ∧
      t.groupOrder = s.groupOrder.filter (fun g => g ≠ groupOf e.car) ++
        (if groupOf e.car ∈ s.groupOrder then [groupOf e.car] else []) ∧
      (∀ x rest, s.queue = x :: rest → s.table.site.deferral = true → e.cls ≠ .service → x.permit.cls = .service →
        s.phase = .recall ∨ s.window = .recallWindow → t.queue = rest ++ [w] ∧ t.slot = some x) ∧
      (s.queue = [] ∨ s.table.site.deferral = false ∨ e.cls = .service → t.queue = s.queue ++ [w] ∧ t.slot = none) ∧
      (s.powerLink.up = true → (.link .power, .load t.usable t.bl t.ml t.rl) ∈ t.outbox) ∧
      t.bl = s.bl ∧ f.start ≤ t.stepMax ∧ t.bl + s.ml + f.start ≤ t.peak ∧
      (f.kind = .motor → t.ml = s.ml + f.demand ∧ t.rl = s.rl ∧ t.bl + t.ml ≤ t.usable) ∧
      (f.kind = .regen → t.ml = s.ml ∧ t.rl = s.rl + f.demand ∧ t.rl ≤ t.absorbRoom)

/-- Admission. An event of R108 makes an admission attempt due, and an earlier one stays due, while the pacer attempts admission, and only
then: an entry to the OPEN state, a permit that joins the queue, a change of E, STEP_MAX, the peak limit, BL, ML or RL (R106, R108; that it
is due, and made by the next step that finds no command, is the model's form, assumption 2). The attempt: in OPEN_A or OPEN_B with the
admitted mark clear the first queued permit that is of an admitted kind and passes its re-check leaves the queue: its car is STARTING with
the run in STARTED-WAIT for 8.0 s, START goes out with destination, class and run limit, a RECALL_DUE car of a RECALL run becomes RECALLING,
blanking begins, the pacer leaves its state (past a SETTLE_B of 0.0 s to OPEN_B at once, assumption 16), and no total changes; a deferred
permit returns to the head where only SERVICE permits are left (R62, R102, R106 to R108, R115, R123, R141). Where none qualifies nothing
happens, and none is due any more. -/
def Obligations.AdmissionStarts : Prop :=
  (∀ (i : Instr) (s t : State), exec i s = .next t →
    ((s.admissionDue = true → s.MayAdmit) → t.admissionDue = true → t.MayAdmit) ∧
    (s.Shaped → t.MayAdmit → t.starts ≠ s.starts ∨ s.admissionDue = true ∧ i ≠ .admission → t.admissionDue = true)) ∧
  ∀ (s : State) (ok : Waiting → Prop), s.Fresh → s.Shaped →
    (∀ w, ok w ↔ s.admitted = false ∧
      (s.pacer = .openA ∧ (s.profile.mode = .unified ∨ w.permit.kind = .motor) ∨ s.pacer = .openB ∧ w.permit.kind = .regen) ∧
      w.permit.start ≤ s.stepMax ∧
      s.bl + s.ml + w.permit.start ≤ s.peak + (if w.permit.kind = .motor then w.permit.demand else 0)) →
    ((∀ w ∈ s.queue, ¬ ok w) → ∃ t, exec .admission s = .next t ∧ t.silent = s.silent ∧ t.outbox = [] ∧
      t.admissionDue = false) ∧
    ∀ (before after : List Waiting) (w : Waiting) (c : Car) (limit : Nat), s.Coherent → s.Bounded → s.staged = none →
      s.queue = before ++ w :: after → (∀ x ∈ before, ¬ ok x) → ok w → s.car w.car = some c →
      limit = ((s.table.groups[groupOf w.car]).tBase + w.permit.floors * (s.table.groups[groupOf w.car]).tFloor) * 10 →
      ∃ t y, exec .admission s = .next t ∧ t.car w.car = some y ∧ y.motion = .starting ∧
        y.run = some ⟨w.permit, limit, .startedWait (s.now + 160)⟩ ∧
        y.step = (if w.permit.cls = .recall ∧ c.step = .recallDue then .recalling else c.step) ∧
        ((s.groupLinks[groupOf w.car]).up = true → (.link (.group (groupOf w.car)),
          .start (numberOf w.car) w.permit.destination w.permit.cls limit) ∈ t.outbox) ∧
        (s.slot = none → t.queue = before ++ after ∧ t.slot = none) ∧
        (∀ d, s.slot = some d →
          if ∀ x ∈ before ++ after, x.permit.cls = .service then t.queue = d :: before ++ after ∧ t.slot = none
          else t.queue = before ++ after ∧ t.slot = some d) ∧
        (t.bl, t.ml, t.rl) = (s.bl, s.ml, s.rl) ∧ t.accounts = s.accounts ∧ t.serviceAccount = s.serviceAccount ∧
        (0 < s.table.site.blankingTime →
          t.blankTimer = some (s.now + s.table.site.blankingTime * 2) ∧ t.filterTimer = none ∧ t.filtered = false) ∧
        (s.table.site.blankingTime = 0 → t.blankTimer = s.blankTimer ∧ t.filterTimer = s.filterTimer ∧ t.filtered = s.filtered) ∧
        (s.pacer = .openA → s.profile.mode = .split →
          if s.profile.settleB = 0 then t.pacer = .openB ∧ t.pacerTimer = some (s.now + s.profile.openB * 2)
          else t.pacer = .settleB ∧ t.pacerTimer = some (s.now + s.profile.settleB * 2)) ∧
        (s.pacer = .openB ∨ s.profile.mode = .unified →
          if s.profile.settleA = 0 then t.pacer = .openA ∧
            t.pacerTimer = (if s.profile.mode = .split then some (s.now + s.profile.openA * 2) else none)
          else t.pacer = .settleA ∧ t.pacerTimer = some (s.now + s.profile.settleA * 2))

/-! ### The timers of a car -/

/-- The start timer cancels the permit with refund: a SERVICE or FIRE run is answered REFUSE NO_START, a RECALL run counts an attempt and is
given a new entry, dwells where it stands at its recall landing (R43), or is given up (R125, R142). The run timer sends STOP_NOW and puts
the run in GRACE for 10.0 s with its reservation held; a RECALL run counts an attempt, and at the site maximum the car is GIVEN_UP (R129).
The GRACE timer discards the permit and makes the car OUT for the cause's reason, with ALERT RUN_TIMEOUT for that cause (R130). -/
def Obligations.RunTimers : Prop :=
  ∀ (s : State) (n : CarName) (c : Car) (r : Run) (e a : Nat), s.car n = some c → c.run = some r →
    a = min (c.attempts + 1) s.table.site.attempts →
    (r.state = .startedWait e → s.waitsOf n = [] → s.entriesOf n = [] → c.unpermitted = false → c.step ≠ .parked → c.step ≠ .shut →
      ∃ t y, exec (.startTimerExpiry n) s = .next t ∧ t.car n = some y ∧ y.run = none ∧ y.pending = none ∧
        t.accounts[groupOf n] ≤ s.accounts[groupOf n] - r.permit.groupCharge ∧
        t.serviceAccount ≤ s.serviceAccount - r.permit.serviceCharge ∧
        (r.permit.cls ≠ .recall → y.attempts = c.attempts ∧ y.step = c.step ∧
          y.motion = (if c.position.isSome = true ∧ c.between = false then .still else .stranded) ∧
          ((s.groupLinks[groupOf n]).up = true →
            (.link (.group (groupOf n)), .refuse (byteOf (numberOf n).val) .noStart) ∈ t.outbox)) ∧
        (r.permit.cls = .recall → c.step = .recalling → y.attempts = a ∧
          (s.table.site.attempts ≤ a → y.step = .givenUp ∧ t.entriesOf n = [] ∧
            (s.panelLink.up = true → (.link .panel, .alert (.givenUp n .noStart)) ∈ t.outbox)) ∧
          (a < s.table.site.attempts →
            ∀ d, d = (if c.between then none else c.position.bind fun p => s.recallLanding (groupOf n) p) →
            (c.position.isSome = true ∧ c.between = false → d.isSome = true) →
            (d.isSome = true ∧ d = c.position → y.step = .dwell ∧ y.motion = .still ∧ t.entriesOf n = []) ∧
            (d = none ∨ d ≠ c.position → y.step = .recallDue ∧ y.motion = .requested ∧ t.entriesOf n = [{
              car := n, cls := .recall, destination := d, trapped := c.occupied && !decide (c.door = .opened),
              arrival := max s.now e / 2 }])))) ∧
    (r.state = .running e → s.Fresh → s.Coherent →
      ∃ t y, exec (.runTimerExpiry n) s = .next t ∧ t.car n = some y ∧
        y.run = some { r with state := .grace .runTimeout (max s.now e + 200) } ∧ y.motion = c.motion ∧ y.pending = c.pending ∧
        (t.bl, t.ml, t.rl) = (s.bl, s.ml, s.rl) ∧
        ((s.groupLinks[groupOf n]).up = true → (.link (.group (groupOf n)), .order (numberOf n) .stopNow 0) ∈ t.outbox) ∧
        (r.permit.cls ≠ .recall → y.attempts = c.attempts ∧ y.step = c.step) ∧
        (r.permit.cls = .recall → y.attempts = a ∧ y.step = if s.table.site.attempts ≤ a then .givenUp else c.step)) ∧
    ∀ cause, r.state = .grace cause e → s.waitsOf n = [] →
      ∃ t y, exec (.graceTimerExpiry n) s = .next t ∧ t.car n = some y ∧ y.run = none ∧ y.pending = none ∧ y.member = none ∧
        y.attempts = c.attempts ∧ y.motion = (match cause with | .runTimeout => .out .runTimeout | .linkLost => .out .link) ∧
        (cause = .runTimeout → s.panelLink.up = true → (.link .panel, .alert (.runTimeout n r.permit.cls)) ∈ t.outbox)

/-- When a dwell ends, the car's group receives PARK with its park doors, and the car is PARKED with PARK its standing order: so in
PRE_TRANSFER, in RECALL without a fire and while another car is still to come, and in SERVICE without a fire under selection NONE without
shut-when-parked. Under selection NONE with shut-when-parked it is then SHUT (R145, R148, R150). -/
def Obligations.DwellEnds : Prop :=
  ∀ (s : State) (n : CarName) (c : Car) (e : Nat), s.Fresh → s.Coherent → s.car n = some c → c.dwell = some e →
    ∃ t y, exec (.dwellTimerExpiry n) s = .next t ∧ t.car n = some y ∧ y.dwell = none ∧ y.motion = c.motion ∧
      ((s.groupLinks[groupOf n]).up = true → (.link (.group (groupOf n)),
        .order (numberOf n) .park (s.table.groups[groupOf n]).parkDoors.code) ∈ t.outbox) ∧
      (s.phase = .preTransfer ∨
          s.phase = .recall ∧ c.fire = false ∧ (∃ m x, m ≠ n ∧ s.car m = some x ∧ x.motion.isOut = false ∧ x.step ≠ .parked ∧
            x.step ≠ .shut ∧ x.step ≠ .givenUp) ∨
          s.phase = .service ∧ c.fire = false ∧ s.selection[groupOf n] = .nobody ∧
            (s.table.groups[groupOf n]).shutWhenParked = false →
        y.step = .parked ∧ y.order = some (.park (s.table.groups[groupOf n]).parkDoors)) ∧
      (s.phase = .service → c.fire = false → s.selection[groupOf n] = .nobody →
        (s.table.groups[groupOf n]).shutWhenParked = true → y.step = .shut ∧ y.order = some .shut)

end Statements
end

