-- ==== Sys2Proof/Laws/Checks.lean ====
section
/-! SUPPORT. Tests of a concrete state for the invariants of Sys2Proof.Safety, as Booleans, with what each establishes. -/

namespace Sys2Proof.Machine

/-- The outcome is a next state. -/
def isNext {S F R : Type} : Host.Outcome S F R → Bool
  | .next _ => true
  | _ => false

theorem next_of_isNext {S F R : Type} {o : Host.Outcome S F R} (h : isNext o = true) : ∃ t, o = .next t := by
  cases o with
  | next t => exact ⟨t, rfl⟩
  | _ => cases h

/-- A test on the next state of an outcome. -/
def nextIs {S F R : Type} (p : S → Bool) : Host.Outcome S F R → Bool
  | .next t => p t
  | _ => false

theorem next_of_nextIs {S F R : Type} {p : S → Bool} {o : Host.Outcome S F R} (h : nextIs p o = true) :
    ∃ t, o = .next t ∧ p t = true := by
  cases o with
  | next t => exact ⟨t, rfl, h⟩
  | _ => cases h

/-- State.Shaped as a test. -/
def State.shapedTest (s : State) : Bool :=
  decide (s.handshake.isSome = true ↔ s.phase = .preTransfer) &&
  decide (s.preTimer.isSome = true ↔ s.handshake.any (fun h => !h.clearSent && !h.expired) = true) &&
  s.handshake.all (fun h => h.clearSent || !s.powerLink.up || !s.clearHolds h.kind) &&
  decide (s.takeover.isSome = true ↔ s.phase = .takeover) &&
  decide (s.window ≠ .noWindow ↔ s.phase = .service) &&
  decide (s.windowTimer.isSome = true ↔ s.phase = .service) &&
  decide (s.tickTimer.isSome = true ↔ s.phase.idle = false) &&
  s.phase.admitsPacer s.pacer &&
  decide (s.pacerTimer.isSome = true ↔ s.pacer.cycling = true ∧ ¬ (s.pacer = .openA ∧ s.profile.mode = .unified)) &&
  decide (s.pacer = .settleB ∨ s.pacer = .openB → s.profile.mode = .split) &&
  decide (s.staged.isSome = true → s.pacer.cycling = true) &&
  decide (s.blHeld = true ↔ s.phase.idle = true ∨ s.phase = .takeover ∨
    s.handshake.any (fun h => decide (h.remembered = .normal ∨ h.remembered = .takeover)) = true) &&
  decide (s.standby = false → s.episode = .closed) && decide (s.episode ≠ .closed → s.overCommitted = true)

theorem shaped_of_test {s : State} (h : s.shapedTest = true) : s.Shaped := by
  simp only [State.shapedTest, Bool.and_eq_true, decide_eq_true_eq, Option.any_eq_true, Option.all_eq_true] at h
  obtain ⟨⟨⟨⟨⟨⟨⟨⟨⟨⟨⟨⟨⟨h1, h2⟩, hc⟩, h3⟩, h4⟩, h5⟩, h6⟩, h7⟩, h8⟩, h9⟩, h10⟩, h11⟩, h13⟩, h14⟩ := h
  refine ⟨h1, h2.trans ?_, fun h e n u => ?_, h3, h4, h5, h6, h7, h8, h9, h10, h11, h13, h14⟩
  · simp
  · simpa [n, u] using hc h e

/-- State.Bounded and State.Ordered as a test. -/
def State.boundedTest (s : State) : Bool :=
  decide (s.queue.length ≤ 4) && (List.finRange 6).all (fun g => decide (s.accounts[g] ≤ 65535)) &&
  decide (s.serviceAccount ≤ 65535) && decide (s.offered ≤ 4000) && decide (s.absorb ≤ 4000) &&
  (List.finRange 6).all (fun g => decide ((s.blocked[g]).length ≤ 8 ∧ (s.blocked[g]).Nodup)) &&
  (List.finRange 6).all (fun g => (s.requests[g]).all fun e => decide (e.arrival ≤ s.tenths)) &&
  s.waiting.all (fun w => decide (w.permit.origin ≤ s.tenths)) &&
  (List.finRange 48).all (fun n => (s.runOf n).all fun r => decide (r.permit.origin ≤ s.tenths)) &&
  decide s.groupOrder.Nodup && (List.finRange 6).all (fun g => decide (g ∈ s.groupOrder ↔ s.groupConfigured g = true)) &&
  (List.finRange 48).all (fun n => decide (s.configured n = true → s.groupConfigured (groupOf n) = true))

theorem bounded_of_test {s : State} (h : s.boundedTest = true) : s.Bounded ∧ s.Ordered := by
  simp only [State.boundedTest, Bool.and_eq_true, decide_eq_true_eq, List.all_eq_true, List.mem_finRange, forall_true_left,
    Option.all_eq_true] at h
  obtain ⟨⟨⟨⟨⟨⟨⟨⟨⟨⟨⟨h1, h2⟩, h3⟩, h4⟩, h5⟩, h6⟩, h7⟩, h8⟩, h9⟩, h10⟩, h11⟩, h12⟩ := h
  exact ⟨⟨h1, h2, h3, h4, h5, h6, h7, h8, h9⟩, h10, h11, h12⟩

/-- RecoveryStep.allows as a test. -/
def allowsTest (step : RecoveryStep) (cls : RunClass) : Bool :=
  if cls = .recall then decide (step = .recallDue) else decide (step.owner = .group)

theorem allows_of_test {step : RecoveryStep} {cls : RunClass} (h : allowsTest step cls = true) : step.allows cls := by
  unfold allowsTest at h
  unfold RecoveryStep.allows
  split <;> simp_all

/-- State.CarCoherent as a test. -/
def State.carTest (s : State) (n : CarName) (c : Car) : Bool :=
  decide ((s.entriesOf n).length = if c.motion = .requested then 1 else 0) &&
  decide ((s.waitsOf n).length = if c.motion = .granted then 1 else 0) &&
  decide (c.run.isSome = true ↔ c.motion.supervised = true) &&
  (s.entriesOf n).all (fun e => allowsTest c.step e.cls) && (s.waitsOf n).all (fun w => allowsTest c.step w.permit.cls) &&
  c.run.all (fun r => if r.permit.cls = .recall then
      decide (c.step = .recallDue ∨ c.step = .recalling ∨ c.step = .givenUp ∨ c.step = .awaiting)
    else decide (c.step.owner = .group)) &&
  decide (c.motion.isOut = true → c.pending = none ∧ (c.member = none ∨ c.member = some .powering)) &&
  c.member.all (fun m => decide (if m = .powering then c.step = .shut else c.step = .service) &&
    (decide (s.phase = .service) || s.handshake.any fun h => decide (h.remembered = .service))) &&
  decide (c.dwell.isSome = true → c.step = .dwell ∧ c.motion.isOut = false ∧ c.run = none ∧ s.phase.serves = true) &&
  decide (c.planDue = true → s.phase = .preTransfer ∧ c.dwell = none ∧ c.run = none ∧ s.entriesOf n = [] ∧
    s.waitsOf n = [] ∧ (c.member = none ∨ c.member = some .powering)) &&
  decide (s.phase.serves = false → c.run = none ∧ c.pending = none ∧ s.entriesOf n = [] ∧ s.waitsOf n = []) &&
  c.run.all (fun r => decide (r.permit.destination = none → r.permit.cls = .recall)) &&
  c.pending.all (fun x => decide (x.destination = none → x.cls = .recall))

theorem carCoherent_of_test {s : State} {n : CarName} {c : Car} (h : s.carTest n c = true) : s.CarCoherent n c := by
  simp only [State.carTest, Bool.and_eq_true, decide_eq_true_eq, List.all_eq_true, Option.all_eq_true, Bool.or_eq_true,
    Option.any_eq_true] at h
  obtain ⟨⟨⟨⟨⟨⟨⟨⟨⟨⟨⟨⟨h1, h2⟩, h3⟩, h4⟩, h5⟩, h6⟩, h7⟩, h8⟩, h9⟩, h10⟩, h11⟩, h12⟩, h13⟩ := h
  refine ⟨h1, h2, h3, fun e he => allows_of_test (h4 e he), fun w hw => allows_of_test (h5 w hw), ?_, h7, ?_, h9, h10, h11, h12, h13⟩
  · intro r hr
    have := h6 r hr
    split at this <;> simp_all
  · exact h8

/-- State.Coherent as a test. -/
def State.coherentTest (s : State) : Bool :=
  (List.finRange 48).all (fun n => match s.car n with
    | some c => s.carTest n c
    | none => decide (s.entriesOf n = [] ∧ s.waitsOf n = [])) &&
  (List.finRange 6).all (fun g => (s.requests[g]).all fun e =>
    decide (groupOf e.car = g) && decide (e.destination = none → e.cls = .recall)) &&
  s.waiting.all (fun w => decide (w.permit.destination = none → w.permit.cls = .recall)) &&
  (List.finRange 6).all (fun g => decide ((s.requests[g]).Pairwise fun a b => a.arrival ≤ b.arrival))

theorem coherent_of_test {s : State} (h : s.coherentTest = true) : s.Coherent := by
  simp only [State.coherentTest, Bool.and_eq_true, decide_eq_true_eq, List.all_eq_true, List.mem_finRange, forall_true_left] at h
  obtain ⟨⟨⟨h1, h2⟩, h3⟩, h4⟩ := h
  refine ⟨fun n c hc => ?_, fun n hn => ?_, h2, h3, h4⟩
  · have := h1 n
    rw [hc] at this
    exact carCoherent_of_test this
  · have := h1 n
    rw [hn] at this
    simpa using this

/-- Every permit is numbered below the next grant's number, and no other car's live permit bears its number. -/
def State.numberedTest (s : State) : Bool :=
  (List.finRange 48).all fun n => (s.permitOf n).all fun p => decide (p.serial < s.grants) &&
    (List.finRange 48).all fun m => (s.permitOf m).all fun q => decide (q.serial = p.serial → m = n)

theorem numbered_of_test {s : State} (h : s.numberedTest = true) : s.Numbered := by
  intro n p hp
  have hn := List.all_eq_true.mp h n (List.mem_finRange n)
  rw [hp] at hn
  obtain ⟨hlt, hm⟩ := Bool.and_eq_true_iff.mp hn
  refine ⟨of_decide_eq_true hlt, fun m q hq => ?_⟩
  have := List.all_eq_true.mp hm m (List.mem_finRange m)
  rw [hq] at this
  exact of_decide_eq_true this

/-- All invariants of Sys2Proof.Safety. -/
def State.Sound (s : State) : Prop := s.Fresh ∧ s.Shaped ∧ s.Bounded ∧ s.Ordered ∧ s.Coherent

/-- All invariants but the freshness of the figures, as a test. -/
def State.soundTest (s : State) : Bool := s.shapedTest && s.boundedTest && s.coherentTest

theorem sound_of_test {s : State} (hf : s.refresh = s) (h : s.soundTest = true) : s.Sound := by
  simp only [State.soundTest, Bool.and_eq_true] at h
  obtain ⟨⟨h1, h2⟩, h3⟩ := h
  exact ⟨hf, shaped_of_test h1, (bounded_of_test h2).1, (bounded_of_test h2).2, coherent_of_test h3⟩

end Sys2Proof.Machine
end

