-- ==== Sys2Proof/Laws/State.lean ====
section
/-! SUPPORT. What each plain update of the state leaves in each field: one lemma per field per update, so that no later proof unfolds a
record update. -/

namespace Sys2Proof.Machine

/-! ### The start of a step -/

@[simp] theorem State.begin_phase (s : State) : (s.begin).phase = s.phase := rfl
@[simp] theorem State.begin_handshake (s : State) : (s.begin).handshake = s.handshake := rfl
@[simp] theorem State.begin_preTimer (s : State) : (s.begin).preTimer = s.preTimer := rfl
@[simp] theorem State.begin_takeover (s : State) : (s.begin).takeover = s.takeover := rfl
@[simp] theorem State.begin_cars (s : State) : (s.begin).cars = s.cars := rfl
@[simp] theorem State.begin_offered (s : State) : (s.begin).offered = s.offered := rfl
@[simp] theorem State.begin_absorb (s : State) : (s.begin).absorb = s.absorb := rfl
@[simp] theorem State.begin_usable (s : State) : (s.begin).usable = s.usable := rfl
@[simp] theorem State.begin_absorbRoom (s : State) : (s.begin).absorbRoom = s.absorbRoom := rfl
@[simp] theorem State.begin_stepMax (s : State) : (s.begin).stepMax = s.stepMax := rfl
@[simp] theorem State.begin_peak (s : State) : (s.begin).peak = s.peak := rfl
@[simp] theorem State.begin_bl (s : State) : (s.begin).bl = s.bl := rfl
@[simp] theorem State.begin_ml (s : State) : (s.begin).ml = s.ml := rfl
@[simp] theorem State.begin_rl (s : State) : (s.begin).rl = s.rl := rfl
@[simp] theorem State.begin_clamp (s : State) : (s.begin).clamp = s.clamp := rfl
@[simp] theorem State.begin_blHeld (s : State) : (s.begin).blHeld = s.blHeld := rfl
@[simp] theorem State.begin_episode (s : State) : (s.begin).episode = s.episode := rfl
@[simp] theorem State.begin_accounts (s : State) : (s.begin).accounts = s.accounts := rfl
@[simp] theorem State.begin_serviceAccount (s : State) : (s.begin).serviceAccount = s.serviceAccount := rfl
@[simp] theorem State.begin_groupOrder (s : State) : (s.begin).groupOrder = s.groupOrder := rfl
@[simp] theorem State.begin_window (s : State) : (s.begin).window = s.window := rfl
@[simp] theorem State.begin_windowTimer (s : State) : (s.begin).windowTimer = s.windowTimer := rfl
@[simp] theorem State.begin_tickTimer (s : State) : (s.begin).tickTimer = s.tickTimer := rfl
@[simp] theorem State.begin_requests (s : State) : (s.begin).requests = s.requests := rfl
@[simp] theorem State.begin_mark (s : State) : (s.begin).mark = s.mark := rfl
@[simp] theorem State.begin_queue (s : State) : (s.begin).queue = s.queue := rfl
@[simp] theorem State.begin_slot (s : State) : (s.begin).slot = s.slot := rfl
@[simp] theorem State.begin_pacer (s : State) : (s.begin).pacer = s.pacer := rfl
@[simp] theorem State.begin_pacerTimer (s : State) : (s.begin).pacerTimer = s.pacerTimer := rfl
@[simp] theorem State.begin_admitted (s : State) : (s.begin).admitted = s.admitted := rfl
@[simp] theorem State.begin_profile (s : State) : (s.begin).profile = s.profile := rfl
@[simp] theorem State.begin_staged (s : State) : (s.begin).staged = s.staged := rfl
@[simp] theorem State.begin_filterTimer (s : State) : (s.begin).filterTimer = s.filterTimer := rfl
@[simp] theorem State.begin_blankTimer (s : State) : (s.begin).blankTimer = s.blankTimer := rfl
@[simp] theorem State.begin_filtered (s : State) : (s.begin).filtered = s.filtered := rfl
@[simp] theorem State.begin_trip (s : State) : (s.begin).trip = s.trip := rfl
@[simp] theorem State.begin_strainLine (s : State) : (s.begin).strainLine = s.strainLine := rfl
@[simp] theorem State.begin_tripLine (s : State) : (s.begin).tripLine = s.tripLine := rfl
@[simp] theorem State.begin_selection (s : State) : (s.begin).selection = s.selection := rfl
@[simp] theorem State.begin_blocked (s : State) : (s.begin).blocked = s.blocked := rfl
@[simp] theorem State.begin_groupLinks (s : State) : (s.begin).groupLinks = s.groupLinks := rfl
@[simp] theorem State.begin_powerLink (s : State) : (s.begin).powerLink = s.powerLink := rfl
@[simp] theorem State.begin_panelLink (s : State) : (s.begin).panelLink = s.panelLink := rfl
@[simp] theorem State.begin_stored (s : State) : (s.begin).stored = s.stored := rfl
@[simp] theorem State.begin_table (s : State) : (s.begin).table = s.table := rfl
@[simp] theorem State.begin_fallback (s : State) : (s.begin).fallback = s.fallback := rfl
@[simp] theorem State.begin_pendingImage (s : State) : (s.begin).pendingImage = s.pendingImage := rfl
@[simp] theorem State.begin_written (s : State) : (s.begin).written = s.written := rfl
@[simp] theorem State.begin_now (s : State) : (s.begin).now = s.now := rfl
@[simp] theorem State.begin_grants (s : State) : (s.begin).grants = s.grants := rfl
@[simp] theorem State.begin_selectionDue (s : State) : (s.begin).selectionDue = s.selectionDue := rfl
@[simp] theorem State.begin_admissionDue (s : State) : (s.begin).admissionDue = s.admissionDue := rfl
@[simp] theorem State.begin_outbox (s : State) : (s.begin).outbox = [] := rfl
@[simp] theorem State.begin_pending (s : State) : (s.begin).pending = s.pending := rfl

/-! ### The clock runs on -/

@[simp] theorem State.reach_phase (s : State) (t : Nat) : (s.reach t).phase = s.phase := rfl
@[simp] theorem State.reach_handshake (s : State) (t : Nat) : (s.reach t).handshake = s.handshake := rfl
@[simp] theorem State.reach_preTimer (s : State) (t : Nat) : (s.reach t).preTimer = s.preTimer := rfl
@[simp] theorem State.reach_takeover (s : State) (t : Nat) : (s.reach t).takeover = s.takeover := rfl
@[simp] theorem State.reach_cars (s : State) (t : Nat) : (s.reach t).cars = s.cars := rfl
@[simp] theorem State.reach_offered (s : State) (t : Nat) : (s.reach t).offered = s.offered := rfl
@[simp] theorem State.reach_absorb (s : State) (t : Nat) : (s.reach t).absorb = s.absorb := rfl
@[simp] theorem State.reach_usable (s : State) (t : Nat) : (s.reach t).usable = s.usable := rfl
@[simp] theorem State.reach_absorbRoom (s : State) (t : Nat) : (s.reach t).absorbRoom = s.absorbRoom := rfl
@[simp] theorem State.reach_stepMax (s : State) (t : Nat) : (s.reach t).stepMax = s.stepMax := rfl
@[simp] theorem State.reach_peak (s : State) (t : Nat) : (s.reach t).peak = s.peak := rfl
@[simp] theorem State.reach_bl (s : State) (t : Nat) : (s.reach t).bl = s.bl := rfl
@[simp] theorem State.reach_ml (s : State) (t : Nat) : (s.reach t).ml = s.ml := rfl
@[simp] theorem State.reach_rl (s : State) (t : Nat) : (s.reach t).rl = s.rl := rfl
@[simp] theorem State.reach_clamp (s : State) (t : Nat) : (s.reach t).clamp = s.clamp := rfl
@[simp] theorem State.reach_blHeld (s : State) (t : Nat) : (s.reach t).blHeld = s.blHeld := rfl
@[simp] theorem State.reach_episode (s : State) (t : Nat) : (s.reach t).episode = s.episode := rfl
@[simp] theorem State.reach_accounts (s : State) (t : Nat) : (s.reach t).accounts = s.accounts := rfl
@[simp] theorem State.reach_serviceAccount (s : State) (t : Nat) : (s.reach t).serviceAccount = s.serviceAccount := rfl
@[simp] theorem State.reach_groupOrder (s : State) (t : Nat) : (s.reach t).groupOrder = s.groupOrder := rfl
@[simp] theorem State.reach_window (s : State) (t : Nat) : (s.reach t).window = s.window := rfl
@[simp] theorem State.reach_windowTimer (s : State) (t : Nat) : (s.reach t).windowTimer = s.windowTimer := rfl
@[simp] theorem State.reach_tickTimer (s : State) (t : Nat) : (s.reach t).tickTimer = s.tickTimer := rfl
@[simp] theorem State.reach_requests (s : State) (t : Nat) : (s.reach t).requests = s.requests := rfl
@[simp] theorem State.reach_mark (s : State) (t : Nat) : (s.reach t).mark = s.mark := rfl
@[simp] theorem State.reach_queue (s : State) (t : Nat) : (s.reach t).queue = s.queue := rfl
@[simp] theorem State.reach_slot (s : State) (t : Nat) : (s.reach t).slot = s.slot := rfl
@[simp] theorem State.reach_pacer (s : State) (t : Nat) : (s.reach t).pacer = s.pacer := rfl
@[simp] theorem State.reach_pacerTimer (s : State) (t : Nat) : (s.reach t).pacerTimer = s.pacerTimer := rfl
@[simp] theorem State.reach_admitted (s : State) (t : Nat) : (s.reach t).admitted = s.admitted := rfl
@[simp] theorem State.reach_profile (s : State) (t : Nat) : (s.reach t).profile = s.profile := rfl
@[simp] theorem State.reach_staged (s : State) (t : Nat) : (s.reach t).staged = s.staged := rfl
@[simp] theorem State.reach_filterTimer (s : State) (t : Nat) : (s.reach t).filterTimer = s.filterTimer := rfl
@[simp] theorem State.reach_blankTimer (s : State) (t : Nat) : (s.reach t).blankTimer = s.blankTimer := rfl
@[simp] theorem State.reach_filtered (s : State) (t : Nat) : (s.reach t).filtered = s.filtered := rfl
@[simp] theorem State.reach_trip (s : State) (t : Nat) : (s.reach t).trip = s.trip := rfl
@[simp] theorem State.reach_strainLine (s : State) (t : Nat) : (s.reach t).strainLine = s.strainLine := rfl
@[simp] theorem State.reach_tripLine (s : State) (t : Nat) : (s.reach t).tripLine = s.tripLine := rfl
@[simp] theorem State.reach_selection (s : State) (t : Nat) : (s.reach t).selection = s.selection := rfl
@[simp] theorem State.reach_blocked (s : State) (t : Nat) : (s.reach t).blocked = s.blocked := rfl
@[simp] theorem State.reach_groupLinks (s : State) (t : Nat) : (s.reach t).groupLinks = s.groupLinks := rfl
@[simp] theorem State.reach_powerLink (s : State) (t : Nat) : (s.reach t).powerLink = s.powerLink := rfl
@[simp] theorem State.reach_panelLink (s : State) (t : Nat) : (s.reach t).panelLink = s.panelLink := rfl
@[simp] theorem State.reach_stored (s : State) (t : Nat) : (s.reach t).stored = s.stored := rfl
@[simp] theorem State.reach_table (s : State) (t : Nat) : (s.reach t).table = s.table := rfl
@[simp] theorem State.reach_fallback (s : State) (t : Nat) : (s.reach t).fallback = s.fallback := rfl
@[simp] theorem State.reach_pendingImage (s : State) (t : Nat) : (s.reach t).pendingImage = s.pendingImage := rfl
@[simp] theorem State.reach_written (s : State) (t : Nat) : (s.reach t).written = s.written := rfl
@[simp] theorem State.reach_now (s : State) (t : Nat) : (s.reach t).now = max s.now t := rfl
@[simp] theorem State.reach_grants (s : State) (t : Nat) : (s.reach t).grants = s.grants := rfl
@[simp] theorem State.reach_selectionDue (s : State) (t : Nat) : (s.reach t).selectionDue = s.selectionDue := rfl
@[simp] theorem State.reach_admissionDue (s : State) (t : Nat) : (s.reach t).admissionDue = s.admissionDue := rfl
@[simp] theorem State.reach_outbox (s : State) (t : Nat) : (s.reach t).outbox = s.outbox := rfl
@[simp] theorem State.reach_pending (s : State) (t : Nat) : (s.reach t).pending = s.pending := rfl

/-! ### A car record is written -/

@[simp] theorem State.putCar_phase (s : State) (n : CarName) (c : Car) : (s.putCar n c).phase = s.phase := rfl
@[simp] theorem State.putCar_handshake (s : State) (n : CarName) (c : Car) : (s.putCar n c).handshake = s.handshake := rfl
@[simp] theorem State.putCar_preTimer (s : State) (n : CarName) (c : Car) : (s.putCar n c).preTimer = s.preTimer := rfl
@[simp] theorem State.putCar_takeover (s : State) (n : CarName) (c : Car) : (s.putCar n c).takeover = s.takeover := rfl
@[simp] theorem State.putCar_cars (s : State) (n : CarName) (c : Car) : (s.putCar n c).cars = s.cars.set n (some c) := rfl
@[simp] theorem State.putCar_offered (s : State) (n : CarName) (c : Car) : (s.putCar n c).offered = s.offered := rfl
@[simp] theorem State.putCar_absorb (s : State) (n : CarName) (c : Car) : (s.putCar n c).absorb = s.absorb := rfl
@[simp] theorem State.putCar_usable (s : State) (n : CarName) (c : Car) : (s.putCar n c).usable = s.usable := rfl
@[simp] theorem State.putCar_absorbRoom (s : State) (n : CarName) (c : Car) : (s.putCar n c).absorbRoom = s.absorbRoom := rfl
@[simp] theorem State.putCar_stepMax (s : State) (n : CarName) (c : Car) : (s.putCar n c).stepMax = s.stepMax := rfl
@[simp] theorem State.putCar_peak (s : State) (n : CarName) (c : Car) : (s.putCar n c).peak = s.peak := rfl
@[simp] theorem State.putCar_bl (s : State) (n : CarName) (c : Car) : (s.putCar n c).bl = s.bl := rfl
@[simp] theorem State.putCar_ml (s : State) (n : CarName) (c : Car) : (s.putCar n c).ml = s.ml := rfl
@[simp] theorem State.putCar_rl (s : State) (n : CarName) (c : Car) : (s.putCar n c).rl = s.rl := rfl
@[simp] theorem State.putCar_clamp (s : State) (n : CarName) (c : Car) : (s.putCar n c).clamp = s.clamp := rfl
@[simp] theorem State.putCar_blHeld (s : State) (n : CarName) (c : Car) : (s.putCar n c).blHeld = s.blHeld := rfl
@[simp] theorem State.putCar_episode (s : State) (n : CarName) (c : Car) : (s.putCar n c).episode = s.episode := rfl
@[simp] theorem State.putCar_accounts (s : State) (n : CarName) (c : Car) : (s.putCar n c).accounts = s.accounts := rfl
@[simp] theorem State.putCar_serviceAccount (s : State) (n : CarName) (c : Car) : (s.putCar n c).serviceAccount = s.serviceAccount := rfl
@[simp] theorem State.putCar_groupOrder (s : State) (n : CarName) (c : Car) : (s.putCar n c).groupOrder = s.groupOrder := rfl
@[simp] theorem State.putCar_window (s : State) (n : CarName) (c : Car) : (s.putCar n c).window = s.window := rfl
@[simp] theorem State.putCar_windowTimer (s : State) (n : CarName) (c : Car) : (s.putCar n c).windowTimer = s.windowTimer := rfl
@[simp] theorem State.putCar_tickTimer (s : State) (n : CarName) (c : Car) : (s.putCar n c).tickTimer = s.tickTimer := rfl
@[simp] theorem State.putCar_requests (s : State) (n : CarName) (c : Car) : (s.putCar n c).requests = s.requests := rfl
@[simp] theorem State.putCar_mark (s : State) (n : CarName) (c : Car) : (s.putCar n c).mark = s.mark := rfl
@[simp] theorem State.putCar_queue (s : State) (n : CarName) (c : Car) : (s.putCar n c).queue = s.queue := rfl
@[simp] theorem State.putCar_slot (s : State) (n : CarName) (c : Car) : (s.putCar n c).slot = s.slot := rfl
@[simp] theorem State.putCar_pacer (s : State) (n : CarName) (c : Car) : (s.putCar n c).pacer = s.pacer := rfl
@[simp] theorem State.putCar_pacerTimer (s : State) (n : CarName) (c : Car) : (s.putCar n c).pacerTimer = s.pacerTimer := rfl
@[simp] theorem State.putCar_admitted (s : State) (n : CarName) (c : Car) : (s.putCar n c).admitted = s.admitted := rfl
@[simp] theorem State.putCar_profile (s : State) (n : CarName) (c : Car) : (s.putCar n c).profile = s.profile := rfl
@[simp] theorem State.putCar_staged (s : State) (n : CarName) (c : Car) : (s.putCar n c).staged = s.staged := rfl
@[simp] theorem State.putCar_filterTimer (s : State) (n : CarName) (c : Car) : (s.putCar n c).filterTimer = s.filterTimer := rfl
@[simp] theorem State.putCar_blankTimer (s : State) (n : CarName) (c : Car) : (s.putCar n c).blankTimer = s.blankTimer := rfl
@[simp] theorem State.putCar_filtered (s : State) (n : CarName) (c : Car) : (s.putCar n c).filtered = s.filtered := rfl
@[simp] theorem State.putCar_trip (s : State) (n : CarName) (c : Car) : (s.putCar n c).trip = s.trip := rfl
@[simp] theorem State.putCar_strainLine (s : State) (n : CarName) (c : Car) : (s.putCar n c).strainLine = s.strainLine := rfl
@[simp] theorem State.putCar_tripLine (s : State) (n : CarName) (c : Car) : (s.putCar n c).tripLine = s.tripLine := rfl
@[simp] theorem State.putCar_selection (s : State) (n : CarName) (c : Car) : (s.putCar n c).selection = s.selection := rfl
@[simp] theorem State.putCar_blocked (s : State) (n : CarName) (c : Car) : (s.putCar n c).blocked = s.blocked := rfl
@[simp] theorem State.putCar_groupLinks (s : State) (n : CarName) (c : Car) : (s.putCar n c).groupLinks = s.groupLinks := rfl
@[simp] theorem State.putCar_powerLink (s : State) (n : CarName) (c : Car) : (s.putCar n c).powerLink = s.powerLink := rfl
@[simp] theorem State.putCar_panelLink (s : State) (n : CarName) (c : Car) : (s.putCar n c).panelLink = s.panelLink := rfl
@[simp] theorem State.putCar_stored (s : State) (n : CarName) (c : Car) : (s.putCar n c).stored = s.stored := rfl
@[simp] theorem State.putCar_table (s : State) (n : CarName) (c : Car) : (s.putCar n c).table = s.table := rfl
@[simp] theorem State.putCar_fallback (s : State) (n : CarName) (c : Car) : (s.putCar n c).fallback = s.fallback := rfl
@[simp] theorem State.putCar_pendingImage (s : State) (n : CarName) (c : Car) : (s.putCar n c).pendingImage = s.pendingImage := rfl
@[simp] theorem State.putCar_written (s : State) (n : CarName) (c : Car) : (s.putCar n c).written = s.written := rfl
@[simp] theorem State.putCar_now (s : State) (n : CarName) (c : Car) : (s.putCar n c).now = s.now := rfl
@[simp] theorem State.putCar_grants (s : State) (n : CarName) (c : Car) : (s.putCar n c).grants = s.grants := rfl
@[simp] theorem State.putCar_selectionDue (s : State) (n : CarName) (c : Car) : (s.putCar n c).selectionDue = s.selectionDue := rfl
@[simp] theorem State.putCar_admissionDue (s : State) (n : CarName) (c : Car) : (s.putCar n c).admissionDue = s.admissionDue := rfl
@[simp] theorem State.putCar_outbox (s : State) (n : CarName) (c : Car) : (s.putCar n c).outbox = s.outbox := rfl
@[simp] theorem State.putCar_pending (s : State) (n : CarName) (c : Car) : (s.putCar n c).pending = s.pending := rfl

/-! ### A refund -/

@[simp] theorem State.refund_phase (s : State) (n : CarName) (p : Permit) : (s.refund n p).phase = s.phase := rfl
@[simp] theorem State.refund_handshake (s : State) (n : CarName) (p : Permit) : (s.refund n p).handshake = s.handshake := rfl
@[simp] theorem State.refund_preTimer (s : State) (n : CarName) (p : Permit) : (s.refund n p).preTimer = s.preTimer := rfl
@[simp] theorem State.refund_takeover (s : State) (n : CarName) (p : Permit) : (s.refund n p).takeover = s.takeover := rfl
@[simp] theorem State.refund_cars (s : State) (n : CarName) (p : Permit) : (s.refund n p).cars = s.cars := rfl
@[simp] theorem State.refund_offered (s : State) (n : CarName) (p : Permit) : (s.refund n p).offered = s.offered := rfl
@[simp] theorem State.refund_absorb (s : State) (n : CarName) (p : Permit) : (s.refund n p).absorb = s.absorb := rfl
@[simp] theorem State.refund_usable (s : State) (n : CarName) (p : Permit) : (s.refund n p).usable = s.usable := rfl
@[simp] theorem State.refund_absorbRoom (s : State) (n : CarName) (p : Permit) : (s.refund n p).absorbRoom = s.absorbRoom := rfl
@[simp] theorem State.refund_stepMax (s : State) (n : CarName) (p : Permit) : (s.refund n p).stepMax = s.stepMax := rfl
@[simp] theorem State.refund_peak (s : State) (n : CarName) (p : Permit) : (s.refund n p).peak = s.peak := rfl
@[simp] theorem State.refund_bl (s : State) (n : CarName) (p : Permit) : (s.refund n p).bl = s.bl := rfl
@[simp] theorem State.refund_ml (s : State) (n : CarName) (p : Permit) : (s.refund n p).ml = s.ml := rfl
@[simp] theorem State.refund_rl (s : State) (n : CarName) (p : Permit) : (s.refund n p).rl = s.rl := rfl
@[simp] theorem State.refund_clamp (s : State) (n : CarName) (p : Permit) : (s.refund n p).clamp = s.clamp := rfl
@[simp] theorem State.refund_blHeld (s : State) (n : CarName) (p : Permit) : (s.refund n p).blHeld = s.blHeld := rfl
@[simp] theorem State.refund_episode (s : State) (n : CarName) (p : Permit) : (s.refund n p).episode = s.episode := rfl
@[simp] theorem State.refund_accounts (s : State) (n : CarName) (p : Permit) : (s.refund n p).accounts = s.accounts.set (groupOf n) (s.accounts[groupOf n] - p.groupCharge) := rfl
@[simp] theorem State.refund_serviceAccount (s : State) (n : CarName) (p : Permit) : (s.refund n p).serviceAccount = s.serviceAccount - p.serviceCharge := rfl
@[simp] theorem State.refund_groupOrder (s : State) (n : CarName) (p : Permit) : (s.refund n p).groupOrder = s.groupOrder := rfl
@[simp] theorem State.refund_window (s : State) (n : CarName) (p : Permit) : (s.refund n p).window = s.window := rfl
@[simp] theorem State.refund_windowTimer (s : State) (n : CarName) (p : Permit) : (s.refund n p).windowTimer = s.windowTimer := rfl
@[simp] theorem State.refund_tickTimer (s : State) (n : CarName) (p : Permit) : (s.refund n p).tickTimer = s.tickTimer := rfl
@[simp] theorem State.refund_requests (s : State) (n : CarName) (p : Permit) : (s.refund n p).requests = s.requests := rfl
@[simp] theorem State.refund_mark (s : State) (n : CarName) (p : Permit) : (s.refund n p).mark = s.mark := rfl
@[simp] theorem State.refund_queue (s : State) (n : CarName) (p : Permit) : (s.refund n p).queue = s.queue := rfl
@[simp] theorem State.refund_slot (s : State) (n : CarName) (p : Permit) : (s.refund n p).slot = s.slot := rfl
@[simp] theorem State.refund_pacer (s : State) (n : CarName) (p : Permit) : (s.refund n p).pacer = s.pacer := rfl
@[simp] theorem State.refund_pacerTimer (s : State) (n : CarName) (p : Permit) : (s.refund n p).pacerTimer = s.pacerTimer := rfl
@[simp] theorem State.refund_admitted (s : State) (n : CarName) (p : Permit) : (s.refund n p).admitted = s.admitted := rfl
@[simp] theorem State.refund_profile (s : State) (n : CarName) (p : Permit) : (s.refund n p).profile = s.profile := rfl
@[simp] theorem State.refund_staged (s : State) (n : CarName) (p : Permit) : (s.refund n p).staged = s.staged := rfl
@[simp] theorem State.refund_filterTimer (s : State) (n : CarName) (p : Permit) : (s.refund n p).filterTimer = s.filterTimer := rfl
@[simp] theorem State.refund_blankTimer (s : State) (n : CarName) (p : Permit) : (s.refund n p).blankTimer = s.blankTimer := rfl
@[simp] theorem State.refund_filtered (s : State) (n : CarName) (p : Permit) : (s.refund n p).filtered = s.filtered := rfl
@[simp] theorem State.refund_trip (s : State) (n : CarName) (p : Permit) : (s.refund n p).trip = s.trip := rfl
@[simp] theorem State.refund_strainLine (s : State) (n : CarName) (p : Permit) : (s.refund n p).strainLine = s.strainLine := rfl
@[simp] theorem State.refund_tripLine (s : State) (n : CarName) (p : Permit) : (s.refund n p).tripLine = s.tripLine := rfl
@[simp] theorem State.refund_selection (s : State) (n : CarName) (p : Permit) : (s.refund n p).selection = s.selection := rfl
@[simp] theorem State.refund_blocked (s : State) (n : CarName) (p : Permit) : (s.refund n p).blocked = s.blocked := rfl
@[simp] theorem State.refund_groupLinks (s : State) (n : CarName) (p : Permit) : (s.refund n p).groupLinks = s.groupLinks := rfl
@[simp] theorem State.refund_powerLink (s : State) (n : CarName) (p : Permit) : (s.refund n p).powerLink = s.powerLink := rfl
@[simp] theorem State.refund_panelLink (s : State) (n : CarName) (p : Permit) : (s.refund n p).panelLink = s.panelLink := rfl
@[simp] theorem State.refund_stored (s : State) (n : CarName) (p : Permit) : (s.refund n p).stored = s.stored := rfl
@[simp] theorem State.refund_table (s : State) (n : CarName) (p : Permit) : (s.refund n p).table = s.table := rfl
@[simp] theorem State.refund_fallback (s : State) (n : CarName) (p : Permit) : (s.refund n p).fallback = s.fallback := rfl
@[simp] theorem State.refund_pendingImage (s : State) (n : CarName) (p : Permit) : (s.refund n p).pendingImage = s.pendingImage := rfl
@[simp] theorem State.refund_written (s : State) (n : CarName) (p : Permit) : (s.refund n p).written = s.written := rfl
@[simp] theorem State.refund_now (s : State) (n : CarName) (p : Permit) : (s.refund n p).now = s.now := rfl
@[simp] theorem State.refund_grants (s : State) (n : CarName) (p : Permit) : (s.refund n p).grants = s.grants := rfl
@[simp] theorem State.refund_selectionDue (s : State) (n : CarName) (p : Permit) : (s.refund n p).selectionDue = s.selectionDue := rfl
@[simp] theorem State.refund_admissionDue (s : State) (n : CarName) (p : Permit) : (s.refund n p).admissionDue = s.admissionDue := rfl
@[simp] theorem State.refund_outbox (s : State) (n : CarName) (p : Permit) : (s.refund n p).outbox = s.outbox := rfl
@[simp] theorem State.refund_pending (s : State) (n : CarName) (p : Permit) : (s.refund n p).pending = s.pending := rfl

/-! ### A waiting permit leaves -/

@[simp] theorem State.dropWaiting_phase (s : State) (n : CarName) : (s.dropWaiting n).phase = s.phase := rfl
@[simp] theorem State.dropWaiting_handshake (s : State) (n : CarName) : (s.dropWaiting n).handshake = s.handshake := rfl
@[simp] theorem State.dropWaiting_preTimer (s : State) (n : CarName) : (s.dropWaiting n).preTimer = s.preTimer := rfl
@[simp] theorem State.dropWaiting_takeover (s : State) (n : CarName) : (s.dropWaiting n).takeover = s.takeover := rfl
@[simp] theorem State.dropWaiting_cars (s : State) (n : CarName) : (s.dropWaiting n).cars = s.cars := rfl
@[simp] theorem State.dropWaiting_offered (s : State) (n : CarName) : (s.dropWaiting n).offered = s.offered := rfl
@[simp] theorem State.dropWaiting_absorb (s : State) (n : CarName) : (s.dropWaiting n).absorb = s.absorb := rfl
@[simp] theorem State.dropWaiting_usable (s : State) (n : CarName) : (s.dropWaiting n).usable = s.usable := rfl
@[simp] theorem State.dropWaiting_absorbRoom (s : State) (n : CarName) : (s.dropWaiting n).absorbRoom = s.absorbRoom := rfl
@[simp] theorem State.dropWaiting_stepMax (s : State) (n : CarName) : (s.dropWaiting n).stepMax = s.stepMax := rfl
@[simp] theorem State.dropWaiting_peak (s : State) (n : CarName) : (s.dropWaiting n).peak = s.peak := rfl
@[simp] theorem State.dropWaiting_bl (s : State) (n : CarName) : (s.dropWaiting n).bl = s.bl := rfl
@[simp] theorem State.dropWaiting_ml (s : State) (n : CarName) : (s.dropWaiting n).ml = s.ml := rfl
@[simp] theorem State.dropWaiting_rl (s : State) (n : CarName) : (s.dropWaiting n).rl = s.rl := rfl
@[simp] theorem State.dropWaiting_clamp (s : State) (n : CarName) : (s.dropWaiting n).clamp = s.clamp := rfl
@[simp] theorem State.dropWaiting_blHeld (s : State) (n : CarName) : (s.dropWaiting n).blHeld = s.blHeld := rfl
@[simp] theorem State.dropWaiting_episode (s : State) (n : CarName) : (s.dropWaiting n).episode = s.episode := rfl
@[simp] theorem State.dropWaiting_accounts (s : State) (n : CarName) : (s.dropWaiting n).accounts = s.accounts := rfl
@[simp] theorem State.dropWaiting_serviceAccount (s : State) (n : CarName) : (s.dropWaiting n).serviceAccount = s.serviceAccount := rfl
@[simp] theorem State.dropWaiting_groupOrder (s : State) (n : CarName) : (s.dropWaiting n).groupOrder = s.groupOrder := rfl
@[simp] theorem State.dropWaiting_window (s : State) (n : CarName) : (s.dropWaiting n).window = s.window := rfl
@[simp] theorem State.dropWaiting_windowTimer (s : State) (n : CarName) : (s.dropWaiting n).windowTimer = s.windowTimer := rfl
@[simp] theorem State.dropWaiting_tickTimer (s : State) (n : CarName) : (s.dropWaiting n).tickTimer = s.tickTimer := rfl
@[simp] theorem State.dropWaiting_requests (s : State) (n : CarName) : (s.dropWaiting n).requests = s.requests := rfl
@[simp] theorem State.dropWaiting_mark (s : State) (n : CarName) : (s.dropWaiting n).mark = s.mark := rfl
@[simp] theorem State.dropWaiting_queue (s : State) (n : CarName) : (s.dropWaiting n).queue = s.queue.filter fun w => w.car ≠ n := rfl
@[simp] theorem State.dropWaiting_slot (s : State) (n : CarName) : (s.dropWaiting n).slot = s.slot.filter fun w => w.car ≠ n := rfl
@[simp] theorem State.dropWaiting_pacer (s : State) (n : CarName) : (s.dropWaiting n).pacer = s.pacer := rfl
@[simp] theorem State.dropWaiting_pacerTimer (s : State) (n : CarName) : (s.dropWaiting n).pacerTimer = s.pacerTimer := rfl
@[simp] theorem State.dropWaiting_admitted (s : State) (n : CarName) : (s.dropWaiting n).admitted = s.admitted := rfl
@[simp] theorem State.dropWaiting_profile (s : State) (n : CarName) : (s.dropWaiting n).profile = s.profile := rfl
@[simp] theorem State.dropWaiting_staged (s : State) (n : CarName) : (s.dropWaiting n).staged = s.staged := rfl
@[simp] theorem State.dropWaiting_filterTimer (s : State) (n : CarName) : (s.dropWaiting n).filterTimer = s.filterTimer := rfl
@[simp] theorem State.dropWaiting_blankTimer (s : State) (n : CarName) : (s.dropWaiting n).blankTimer = s.blankTimer := rfl
@[simp] theorem State.dropWaiting_filtered (s : State) (n : CarName) : (s.dropWaiting n).filtered = s.filtered := rfl
@[simp] theorem State.dropWaiting_trip (s : State) (n : CarName) : (s.dropWaiting n).trip = s.trip := rfl
@[simp] theorem State.dropWaiting_strainLine (s : State) (n : CarName) : (s.dropWaiting n).strainLine = s.strainLine := rfl
@[simp] theorem State.dropWaiting_tripLine (s : State) (n : CarName) : (s.dropWaiting n).tripLine = s.tripLine := rfl
@[simp] theorem State.dropWaiting_selection (s : State) (n : CarName) : (s.dropWaiting n).selection = s.selection := rfl
@[simp] theorem State.dropWaiting_blocked (s : State) (n : CarName) : (s.dropWaiting n).blocked = s.blocked := rfl
@[simp] theorem State.dropWaiting_groupLinks (s : State) (n : CarName) : (s.dropWaiting n).groupLinks = s.groupLinks := rfl
@[simp] theorem State.dropWaiting_powerLink (s : State) (n : CarName) : (s.dropWaiting n).powerLink = s.powerLink := rfl
@[simp] theorem State.dropWaiting_panelLink (s : State) (n : CarName) : (s.dropWaiting n).panelLink = s.panelLink := rfl
@[simp] theorem State.dropWaiting_stored (s : State) (n : CarName) : (s.dropWaiting n).stored = s.stored := rfl
@[simp] theorem State.dropWaiting_table (s : State) (n : CarName) : (s.dropWaiting n).table = s.table := rfl
@[simp] theorem State.dropWaiting_fallback (s : State) (n : CarName) : (s.dropWaiting n).fallback = s.fallback := rfl
@[simp] theorem State.dropWaiting_pendingImage (s : State) (n : CarName) : (s.dropWaiting n).pendingImage = s.pendingImage := rfl
@[simp] theorem State.dropWaiting_written (s : State) (n : CarName) : (s.dropWaiting n).written = s.written := rfl
@[simp] theorem State.dropWaiting_now (s : State) (n : CarName) : (s.dropWaiting n).now = s.now := rfl
@[simp] theorem State.dropWaiting_grants (s : State) (n : CarName) : (s.dropWaiting n).grants = s.grants := rfl
@[simp] theorem State.dropWaiting_selectionDue (s : State) (n : CarName) : (s.dropWaiting n).selectionDue = s.selectionDue := rfl
@[simp] theorem State.dropWaiting_admissionDue (s : State) (n : CarName) : (s.dropWaiting n).admissionDue = s.admissionDue := rfl
@[simp] theorem State.dropWaiting_outbox (s : State) (n : CarName) : (s.dropWaiting n).outbox = s.outbox := rfl
@[simp] theorem State.dropWaiting_pending (s : State) (n : CarName) : (s.dropWaiting n).pending = s.pending := rfl

/-! ### The figures are brought up to date -/

@[simp] theorem State.refresh_phase (s : State) : (s.refresh).phase = s.phase := rfl
@[simp] theorem State.refresh_handshake (s : State) : (s.refresh).handshake = s.handshake := rfl
@[simp] theorem State.refresh_preTimer (s : State) : (s.refresh).preTimer = s.preTimer := rfl
@[simp] theorem State.refresh_takeover (s : State) : (s.refresh).takeover = s.takeover := rfl
@[simp] theorem State.refresh_cars (s : State) : (s.refresh).cars = s.cars := rfl
@[simp] theorem State.refresh_offered (s : State) : (s.refresh).offered = s.offered := rfl
@[simp] theorem State.refresh_absorb (s : State) : (s.refresh).absorb = s.absorb := rfl
@[simp] theorem State.refresh_usable (s : State) : (s.refresh).usable = min s.offered s.table.site.eMax := rfl
@[simp] theorem State.refresh_absorbRoom (s : State) : (s.refresh).absorbRoom = s.absorb + s.baseLoad := rfl
@[simp] theorem State.refresh_stepMax (s : State) : (s.refresh).stepMax = min s.offered s.table.site.eMax * s.profile.stepPercent / 100 := rfl
@[simp] theorem State.refresh_peak (s : State) : (s.refresh).peak = min s.offered s.table.site.eMax + min s.offered s.table.site.eMax * s.profile.overloadPercent / 100 := rfl
@[simp] theorem State.refresh_bl (s : State) : (s.refresh).bl = s.baseLoad := rfl
@[simp] theorem State.refresh_ml (s : State) : (s.refresh).ml = s.motorLoad := rfl
@[simp] theorem State.refresh_rl (s : State) : (s.refresh).rl = s.regenLoad := rfl
@[simp] theorem State.refresh_clamp (s : State) : (s.refresh).clamp = s.clamp := rfl
@[simp] theorem State.refresh_blHeld (s : State) : (s.refresh).blHeld = s.blHeld := rfl
@[simp] theorem State.refresh_episode (s : State) : (s.refresh).episode = s.episode := rfl
@[simp] theorem State.refresh_accounts (s : State) : (s.refresh).accounts = s.accounts := rfl
@[simp] theorem State.refresh_serviceAccount (s : State) : (s.refresh).serviceAccount = s.serviceAccount := rfl
@[simp] theorem State.refresh_groupOrder (s : State) : (s.refresh).groupOrder = s.groupOrder := rfl
@[simp] theorem State.refresh_window (s : State) : (s.refresh).window = s.window := rfl
@[simp] theorem State.refresh_windowTimer (s : State) : (s.refresh).windowTimer = s.windowTimer := rfl
@[simp] theorem State.refresh_tickTimer (s : State) : (s.refresh).tickTimer = s.tickTimer := rfl
@[simp] theorem State.refresh_requests (s : State) : (s.refresh).requests = s.requests := rfl
@[simp] theorem State.refresh_mark (s : State) : (s.refresh).mark = s.mark := rfl
@[simp] theorem State.refresh_queue (s : State) : (s.refresh).queue = s.queue := rfl
@[simp] theorem State.refresh_slot (s : State) : (s.refresh).slot = s.slot := rfl
@[simp] theorem State.refresh_pacer (s : State) : (s.refresh).pacer = s.pacer := rfl
@[simp] theorem State.refresh_pacerTimer (s : State) : (s.refresh).pacerTimer = s.pacerTimer := rfl
@[simp] theorem State.refresh_admitted (s : State) : (s.refresh).admitted = s.admitted := rfl
@[simp] theorem State.refresh_profile (s : State) : (s.refresh).profile = s.profile := rfl
@[simp] theorem State.refresh_staged (s : State) : (s.refresh).staged = s.staged := rfl
@[simp] theorem State.refresh_filterTimer (s : State) : (s.refresh).filterTimer = s.filterTimer := rfl
@[simp] theorem State.refresh_blankTimer (s : State) : (s.refresh).blankTimer = s.blankTimer := rfl
@[simp] theorem State.refresh_filtered (s : State) : (s.refresh).filtered = s.filtered := rfl
@[simp] theorem State.refresh_trip (s : State) : (s.refresh).trip = s.trip := rfl
@[simp] theorem State.refresh_strainLine (s : State) : (s.refresh).strainLine = s.strainLine := rfl
@[simp] theorem State.refresh_tripLine (s : State) : (s.refresh).tripLine = s.tripLine := rfl
@[simp] theorem State.refresh_selection (s : State) : (s.refresh).selection = s.selection := rfl
@[simp] theorem State.refresh_blocked (s : State) : (s.refresh).blocked = s.blocked := rfl
@[simp] theorem State.refresh_groupLinks (s : State) : (s.refresh).groupLinks = s.groupLinks := rfl
@[simp] theorem State.refresh_powerLink (s : State) : (s.refresh).powerLink = s.powerLink := rfl
@[simp] theorem State.refresh_panelLink (s : State) : (s.refresh).panelLink = s.panelLink := rfl
@[simp] theorem State.refresh_stored (s : State) : (s.refresh).stored = s.stored := rfl
@[simp] theorem State.refresh_table (s : State) : (s.refresh).table = s.table := rfl
@[simp] theorem State.refresh_fallback (s : State) : (s.refresh).fallback = s.fallback := rfl
@[simp] theorem State.refresh_pendingImage (s : State) : (s.refresh).pendingImage = s.pendingImage := rfl
@[simp] theorem State.refresh_written (s : State) : (s.refresh).written = s.written := rfl
@[simp] theorem State.refresh_now (s : State) : (s.refresh).now = s.now := rfl
@[simp] theorem State.refresh_grants (s : State) : (s.refresh).grants = s.grants := rfl
@[simp] theorem State.refresh_selectionDue (s : State) : (s.refresh).selectionDue = s.selectionDue := rfl
@[simp] theorem State.refresh_admissionDue (s : State) : (s.refresh).admissionDue = s.admissionDue := rfl
@[simp] theorem State.refresh_outbox (s : State) : (s.refresh).outbox = s.outbox := rfl
@[simp] theorem State.refresh_pending (s : State) : (s.refresh).pending = s.pending := rfl

end Sys2Proof.Machine
end

