-- ==== Sys2Proof/Laws/Keeps.lean ====
section
/-! SUPPORT. The frame of the shared operations: State.Keeps s t says that t differs from s in no control state, that no reported data of
any car differ, and that nothing already sent is taken back. One lemma per operation; a proof about a command cites these. -/

namespace Sys2Proof.Machine

/-- Nothing grows: t has no permit that s has not, and no account of t is above that of s. Only ADMISSION and GRANT fall outside this. -/
structure State.Wanes (s t : State) : Prop where
  waits : ∀ w ∈ t.waiting, w ∈ s.waiting
  accounts : ∀ g : GroupNo, t.accounts[g] ≤ s.accounts[g]
  service : t.serviceAccount ≤ s.serviceAccount
  runs : ∀ n r, t.runOf n = some r → ∃ r0, s.runOf n = some r0 ∧ r0.permit = r.permit

theorem State.Wanes.refl (s : State) : s.Wanes s :=
  ⟨fun _ h => h, fun _ => Nat.le_refl _, Nat.le_refl _, fun _ r h => ⟨r, h, rfl⟩⟩

theorem State.Wanes.trans {s t u : State} (h : s.Wanes t) (k : t.Wanes u) : s.Wanes u where
  waits w hw := h.waits w (k.waits w hw)
  accounts g := Nat.le_trans (k.accounts g) (h.accounts g)
  service := Nat.le_trans k.service h.service
  runs n r hr := by
    obtain ⟨x, hx, ex⟩ := k.runs n r hr
    obtain ⟨y, hy, ey⟩ := h.runs n x hx
    exact ⟨y, hy, ey.trans ex⟩

/-- t keeps the control state and the reported data of s, and everything s has sent, and nothing grows. -/
structure State.Keeps (s t : State) : Prop where
  control : t.control = s.control
  body : ∀ n, t.body n = s.body n
  sent : s.outbox <+: t.outbox
  wanes : s.Wanes t

theorem State.Keeps.refl (s : State) : s.Keeps s := ⟨rfl, fun _ => rfl, List.prefix_refl _, .refl s⟩

theorem State.Keeps.trans {s t u : State} (h : s.Keeps t) (k : t.Keeps u) : s.Keeps u :=
  ⟨k.control.trans h.control, fun n => (k.body n).trans (h.body n), h.sent.trans k.sent, h.wanes.trans k.wanes⟩

/-- The same with the later part first, from which the state between is read. -/
theorem State.Keeps.after {s t u : State} (k : t.Keeps u) (h : s.Keeps t) : s.Keeps u := h.trans k

theorem State.Keeps.foldl {α : Type} {f : State → α → State} (h : ∀ (a : State) x, a.Keeps (f a x)) :
    ∀ (l : List α) (s : State), s.Keeps (l.foldl f s)
  | [], s => .refl s
  | x :: l, s => (h s x).trans (State.Keeps.foldl h l (f s x))

theorem State.Keeps.forCars {f : CarName → State → State} (h : ∀ n (a : State), a.Keeps (f n a)) (s : State) : s.Keeps (s.forCars f) :=
  State.Keeps.foldl (fun a n => h n a) carNames s

theorem State.Keeps.ite {s t u : State} {p : Prop} [Decidable p] (h : s.Keeps t) (k : s.Keeps u) :
    s.Keeps (if p then t else u) := by
  split
  · exact h
  · exact k

/-! ### Reading and writing car records -/

theorem State.car_putCar (s : State) (n m : CarName) (c : Car) : (s.putCar n c).car m = if n = m then some c else s.car m := by
  unfold State.putCar State.car
  by_cases h : n = m
  · subst h; simp
  · have : n.val ≠ m.val := fun e => h (Fin.ext e)
    simp [h, this]

@[simp] theorem State.car_putCar_same (s : State) (n : CarName) (c : Car) : (s.putCar n c).car n = some c := by
  simp [State.car_putCar]

theorem State.car_putCar_ne (s : State) {n m : CarName} (h : n ≠ m) (c : Car) : (s.putCar n c).car m = s.car m := by
  simp [State.car_putCar, h]

/-- Two states with the same records have the same car at every name. -/
theorem State.car_congr {s t : State} (h : t.cars = s.cars) (n : CarName) : t.car n = s.car n := by
  unfold State.car; rw [h]

theorem State.body_congr {s t : State} (h : t.cars = s.cars) (n : CarName) : t.body n = s.body n := by
  unfold State.body; rw [State.car_congr h]

theorem State.runOf_congr {s t : State} (h : t.cars = s.cars) (n : CarName) : t.runOf n = s.runOf n := by
  unfold State.runOf; rw [State.car_congr h]

theorem State.waiting_congr {s t : State} (q : t.queue = s.queue) (d : t.slot = s.slot) : t.waiting = s.waiting := by
  unfold State.waiting; rw [q, d]

/-- Nothing grows where the cars stay, the permits that wait waited before, and no account is above what it was. -/
theorem State.Wanes.of_cars {s t : State} (h : t.cars = s.cars) (w : ∀ w ∈ t.waiting, w ∈ s.waiting)
    (a : ∀ g : GroupNo, t.accounts[g] ≤ s.accounts[g]) (v : t.serviceAccount ≤ s.serviceAccount) : s.Wanes t :=
  ⟨w, a, v, fun n r hr => ⟨r, State.runOf_congr h n ▸ hr, rfl⟩⟩

/-- Nothing grows where cars, waiting permits and accounts stay. -/
theorem State.Wanes.of_eq {s t : State} (h : t.cars = s.cars) (q : t.queue = s.queue) (d : t.slot = s.slot)
    (a : t.accounts = s.accounts) (v : t.serviceAccount = s.serviceAccount) : s.Wanes t :=
  .of_cars h (fun _ hw => State.waiting_congr q d ▸ hw) (fun g => by rw [a]) (Nat.le_of_eq v)

/-- Only the figures, the episode mark, the request lists and their mark may differ. -/
theorem State.Keeps.of_eq {s t : State} (c : t.control = s.control) (h : t.cars = s.cars) (o : t.outbox = s.outbox)
    (q : t.queue = s.queue) (d : t.slot = s.slot) (a : t.accounts = s.accounts) (v : t.serviceAccount = s.serviceAccount) :
    s.Keeps t := ⟨c, State.body_congr h, o ▸ List.prefix_refl _, .of_eq h q d a v⟩

/-- A record may take another run only in that its permit stays. -/
def Car.Sheds (c d : Car) : Prop := ∀ r, d.run = some r → ∃ r0, c.run = some r0 ∧ r0.permit = r.permit

theorem Car.Sheds.same {c d : Car} (h : d.run = c.run) : c.Sheds d := fun r hr => ⟨r, h ▸ hr, rfl⟩

theorem Car.Sheds.none {c d : Car} (h : d.run = none) : c.Sheds d := fun r hr => by rw [h] at hr; cases hr

/-- Writing a record with the same reported data, and no new permit, keeps the frame. -/
theorem State.putCar_keeps {s : State} {n : CarName} {c d : Car} (h : s.car n = some c) (b : d.body = c.body) (r : c.Sheds d) :
    s.Keeps (s.putCar n d) := by
  refine ⟨rfl, fun m => ?_, List.prefix_refl _, fun _ hw => hw, fun _ => Nat.le_refl _, Nat.le_refl _, fun m x hx => ?_⟩
  · unfold State.body
    rw [State.car_putCar]
    split
    · next e => subst e; simp [h, b]
    · rfl
  · unfold State.runOf at hx ⊢
    rw [State.car_putCar] at hx
    split at hx
    · next e => subst e; rw [h]; exact r x hx
    · exact ⟨x, hx, rfl⟩

theorem State.car_modCar (s : State) (n m : CarName) (f : Car → Car) :
    (s.modCar n f).car m = if n = m then (s.car m).map f else s.car m := by
  unfold State.modCar
  split
  · next c h =>
    rw [State.car_putCar]
    split
    · next e => subst e; simp [h]
    · rfl
  · next h =>
    split
    · next e => subst e; simp [h]
    · rfl

/-- A change of a record that keeps its reported data and takes no new permit keeps the frame. -/
theorem State.modCar_sheds (s : State) (n : CarName) (f : Car → Car) (h : ∀ c, (f c).body = c.body) (r : ∀ c : Car, c.Sheds (f c)) :
    s.Keeps (s.modCar n f) := by
  unfold State.modCar
  split
  · next c hc => exact State.putCar_keeps hc (h c) (r c)
  · exact .refl s

/-- A change of a record that keeps its reported data and its run keeps the frame. -/
theorem State.modCar_keeps (s : State) (n : CarName) (f : Car → Car) (h : ∀ c, (f c).body = c.body)
    (r : ∀ c, (f c).run = c.run) : s.Keeps (s.modCar n f) := s.modCar_sheds n f h fun c => .same (r c)

theorem State.setMotion_keeps (s : State) (n : CarName) (m : Motion) : s.Keeps (s.setMotion n m) :=
  s.modCar_keeps n _ (fun _ => rfl) fun _ => rfl

theorem State.comeToRest_keeps (s : State) (n : CarName) : s.Keeps (s.comeToRest n) := s.modCar_keeps n _ (fun _ => rfl) fun _ => rfl

/-! ### Sending and orders -/

theorem State.emit_keeps (s : State) (p : Port) (m : OutMsg) : s.Keeps (s.emit p m) := by
  unfold State.emit
  split
  · exact ⟨rfl, fun _ => rfl, List.prefix_append _ _, .of_eq rfl rfl rfl rfl rfl⟩
  · exact .refl s

theorem State.toGroup_keeps (s : State) (g : GroupNo) (m : OutMsg) : s.Keeps (s.toGroup g m) := s.emit_keeps _ _

theorem State.toPanel_keeps (s : State) (m : OutMsg) : s.Keeps (s.toPanel m) := s.emit_keeps _ _

theorem State.toPower_keeps (s : State) (m : OutMsg) : s.Keeps (s.toPower m) := s.emit_keeps _ _

theorem State.sendLoad_keeps (s : State) : s.Keeps s.sendLoad := s.emit_keeps _ _

theorem State.giveOrder_keeps (s : State) (n : CarName) (o : Order) : s.Keeps (s.giveOrder n o) := by
  unfold State.giveOrder
  split
  · exact (State.toGroup_keeps _ _ _).after (s.modCar_keeps n _ (fun _ => rfl) fun _ => rfl)
  · exact .refl s

theorem State.stopNow_keeps (s : State) (n : CarName) : s.Keeps (s.stopNow n) := s.emit_keeps _ _

theorem State.stopNext_keeps (s : State) (n : CarName) : s.Keeps (s.stopNext n) := s.emit_keeps _ _

theorem State.refuse_keeps (s : State) (n : CarName) (r : RefuseReason) : s.Keeps (s.refuse n r) := s.emit_keeps _ _

theorem State.stopDwell_keeps (s : State) (n : CarName) : s.Keeps (s.stopDwell n) := s.modCar_keeps n _ (fun _ => rfl) fun _ => rfl

theorem State.phaseNotice_keeps (s : State) : s.Keeps s.phaseNotice :=
  (State.toPanel_keeps _ _).after (State.Keeps.foldl (fun a g => a.toGroup_keeps g _) groupNos s)

/-! ### Entries -/

theorem State.Keeps.andRequests {s t : State} (h : s.Keeps t) (r : Vector (List Entry) 6) : s.Keeps { t with requests := r } :=
  ⟨h.control, h.body, h.sent, h.wanes.trans (.of_eq rfl rfl rfl rfl rfl)⟩

theorem State.removeEntry_keeps (s : State) (n : CarName) : s.Keeps (s.removeEntry n) := by
  unfold State.removeEntry
  split
  · exact .of_eq rfl rfl rfl rfl rfl rfl rfl
  · exact .refl s

theorem State.addEntry_keeps (s : State) (n : CarName) (cls : RunClass) (d : Option Landing) (a : Nat) :
    s.Keeps (s.addEntry n cls d a) :=
  (State.modCar_keeps _ n (fun c => { c with motion := .requested, planDue := false }) (fun _ => rfl) fun _ => rfl).after
    ((s.removeEntry_keeps n).andRequests _)

theorem State.dropGroupEntry_keeps (s : State) (n : CarName) : s.Keeps (s.dropGroupEntry n) := by
  unfold State.dropGroupEntry
  split
  · split
    · exact .refl s
    · exact (State.comeToRest_keeps _ _).after ((State.refuse_keeps _ _ _).after (s.removeEntry_keeps n))
  · exact .refl s

theorem State.setStep_keeps (s : State) (n : CarName) (r : RecoveryStep) : s.Keeps (s.setStep n r) := by
  unfold State.setStep
  split
  · next c h => exact .ite ((State.dropGroupEntry_keeps _ _).after (State.putCar_keeps h rfl (.same rfl))) (State.putCar_keeps h rfl (.same rfl))
  · exact .refl s

/-! ### Permits and run actions -/

theorem State.waitingOf_mem {s : State} {n : CarName} {w : Waiting} (h : s.waitingOf n = some w) : w ∈ s.waiting ∧ w.car = n := by
  unfold State.waitingOf at h
  exact ⟨List.mem_of_find?_eq_some h, by simpa using List.find?_some h⟩

theorem State.waiting_dropWaiting (s : State) (n : CarName) :
    (s.dropWaiting n).waiting = s.waiting.filter fun w => w.car ≠ n := by
  unfold State.waiting State.dropWaiting
  rw [List.filter_append]
  cases s.slot with
  | none => rfl
  | some x => by_cases e : x.car = n <;> simp [e, Option.filter]

theorem State.mem_waiting_dropWaiting (s : State) (n : CarName) (w : Waiting) :
    w ∈ (s.dropWaiting n).waiting ↔ w ∈ s.waiting ∧ w.car ≠ n := by
  rw [State.waiting_dropWaiting]
  simp

theorem State.refund_le (s : State) (n : CarName) (p : Permit) (g : GroupNo) : (s.refund n p).accounts[g] ≤ s.accounts[g] := by
  rw [State.refund_accounts]
  by_cases e : groupOf n = g
  · subst e; simp
  · have : (groupOf n).val ≠ g.val := fun h => e (Fin.ext h)
    simp [this]

/-- A refund and a departure from the queue or the slot. -/
theorem State.refundDrop_keeps (s : State) (n : CarName) (p : Permit) : s.Keeps ((s.refund n p).dropWaiting n) :=
  ⟨rfl, fun _ => rfl, List.prefix_refl _, .of_cars rfl (fun x hx => ((State.mem_waiting_dropWaiting _ n x).1 hx).1)
    (fun g => s.refund_le n p g) (Nat.sub_le _ _)⟩

theorem State.cancelWaiting_keeps (s : State) (n : CarName) : s.Keeps (s.cancelWaiting n) := by
  unfold State.cancelWaiting
  split
  · exact s.refundDrop_keeps n _
  · exact .refl s

theorem State.answerCancelled_keeps (s : State) (n : CarName) (cls : RunClass) : s.Keeps (s.answerCancelled n cls) :=
  .ite (.refl s) (s.refuse_keeps n _)

theorem State.dispose_keeps (s : State) (n : CarName) : s.Keeps (s.dispose n) := by
  unfold State.dispose
  split
  · exact (State.answerCancelled_keeps _ _ _).after (s.removeEntry_keeps n)
  · split
    · exact (State.answerCancelled_keeps _ _ _).after (s.cancelWaiting_keeps n)
    · exact .refl s

theorem State.dropRun_keeps (s : State) (n : CarName) : s.Keeps (s.dropRun n) :=
  s.modCar_sheds n _ (fun _ => rfl) fun _ => .none rfl

theorem State.completeRun_keeps (s : State) (n : CarName) (f : FollowUps) : s.Keeps (s.completeRun n f) :=
  s.modCar_keeps n _ (fun c => by cases c.run <;> rfl) fun c => by cases h : c.run <;> simp [h]

theorem State.curtailRun_keeps (s : State) (n : CarName) (f : FollowUps) : s.Keeps (s.curtailRun n f) := by
  unfold State.curtailRun
  split
  · next c h =>
    split
    · exact .ite ((State.stopNext_keeps _ _).after (State.putCar_keeps h rfl (.same rfl))) (State.putCar_keeps h rfl (.same rfl))
    · exact .refl s
  · exact .refl s

theorem State.abandonRun_keeps (s : State) (n : CarName) : s.Keeps (s.abandonRun n) := by
  unfold State.abandonRun
  split
  · next c h =>
    split
    · next r hr =>
      have k : s.Keeps ((s.putCar n { c with
          run := none, credit := none, motion := .stranded,
          pending := some (combineAction c.pending .abandon .clear r.permit) }).stopNow n) :=
        (State.stopNow_keeps _ n).after (State.putCar_keeps h rfl (.none rfl))
      exact .ite (k.trans (State.setStep_keeps _ _ _)) k
    · exact .refl s
  · exact .refl s

theorem State.goOut_keeps (s : State) (n : CarName) (r : OutReason) : s.Keeps (s.goOut n r) :=
  (State.modCar_keeps _ _ (fun c => { c with motion := .out r, pending := none, member := none }) (fun _ => rfl) fun _ => rfl).after ((State.stopDwell_keeps _ _).after (s.removeEntry_keeps n))

theorem State.unpermittedMotion_keeps (s : State) (n : CarName) : s.Keeps (s.unpermittedMotion n) := by
  unfold State.unpermittedMotion
  split
  · next c h =>
    exact .ite (.refl s) ((State.toPanel_keeps _ _).after ((State.stopNow_keeps _ _).after (State.putCar_keeps h rfl (.same rfl))))
  · exact .refl s

theorem State.endUnpermitted_keeps (s : State) (n : CarName) : s.Keeps (s.endUnpermitted n) := s.modCar_keeps n _ (fun _ => rfl) fun _ => rfl

theorem State.refresh_keeps (s : State) : s.Keeps s.refresh := .of_eq rfl rfl rfl rfl rfl rfl rfl

/-! ### The Recall Planner -/

theorem State.park_keeps (s : State) (n : CarName) : s.Keeps (s.park n) := (State.giveOrder_keeps _ _ _).after (s.setStep_keeps n _)

theorem State.parkInPlace_keeps (s : State) (n : CarName) : s.Keeps (s.parkInPlace n) := by
  unfold State.parkInPlace
  split
  · have k : s.Keeps (if (s.entryOf n).isSome then (s.removeEntry n).comeToRest n else s) :=
      .ite ((State.comeToRest_keeps _ _).after (s.removeEntry_keeps n)) (.refl s)
    have k := (State.modCar_keeps _ n (fun x => { x with noLanding := true, planDue := false }) (fun _ => rfl) fun _ => rfl).after ((State.park_keeps _ n).after k)
    dsimp only
    split
    · exact k.trans (State.toPanel_keeps _ _)
    · exact k
  · exact .refl s

theorem State.startDwell_keeps (s : State) (n : CarName) : s.Keeps (s.startDwell n) :=
  (State.modCar_keeps _ _ (fun c => { c with dwell := some _, planDue := false }) (fun _ => rfl) fun _ => rfl).after ((State.giveOrder_keeps _ _ _).after (s.setStep_keeps n _))

theorem State.recallEntry_keeps (s : State) (n : CarName) (a : Nat) : s.Keeps (s.recallEntry n a) := by
  unfold State.recallEntry
  repeat' split
  all_goals first | exact .refl s | exact s.startDwell_keeps n | exact s.addEntry_keeps _ _ _ _ | exact s.parkInPlace_keeps n

theorem State.becomeDue_keeps (s : State) (n : CarName) : s.Keeps (s.becomeDue n) := by
  unfold State.becomeDue
  split
  · exact .ite (s.setStep_keeps n _) ((State.setStep_keeps _ _ _).after (s.giveOrder_keeps n _))
  · exact .refl s

theorem State.sendToRecall_keeps (s : State) (n : CarName) : s.Keeps (s.sendToRecall n) := by
  unfold State.sendToRecall
  split
  · exact .ite (s.parkInPlace_keeps n) ((State.recallEntry_keeps _ _ _).after (s.becomeDue_keeps n))
  · exact .refl s

theorem State.planFrom_keeps (s : State) (n : CarName) (r : RecoveryStep) : s.Keeps (s.planFrom n r) := by
  unfold State.planFrom
  repeat' split
  all_goals first | exact .refl s | exact s.startDwell_keeps n | exact s.sendToRecall_keeps n | exact s.park_keeps n

theorem State.plan_keeps (s : State) (n : CarName) : s.Keeps (s.plan n) := by
  unfold State.plan
  split
  · exact s.planFrom_keeps n _
  · exact .refl s

theorem State.replanInPlace_keeps (s : State) (n : CarName) : s.Keeps (s.replanInPlace n) :=
  (State.planFrom_keeps _ _ _).after (s.modCar_keeps n _ (fun _ => rfl) fun _ => rfl)

theorem State.arrivalEffect_keeps (s : State) (n : CarName) : s.Keeps (s.arrivalEffect n) := by
  unfold State.arrivalEffect
  split
  · exact .ite (s.startDwell_keeps n)
      (.ite (s.parkInPlace_keeps n) ((State.recallEntry_keeps _ _ _).after (s.setStep_keeps n _)))
  · exact .refl s

theorem State.countAttempt_keeps (s : State) (n : CarName) : s.Keeps (s.countAttempt n) := s.modCar_keeps n _ (fun _ => rfl) fun _ => rfl

theorem State.giveUp_keeps (s : State) (n : CarName) (c : FailCause) : s.Keeps (s.giveUp n c) := by
  have k : s.Keeps (if ((s.setStep n .givenUp).entryOf n).isSome then ((s.setStep n .givenUp).removeEntry n).comeToRest n
      else s.setStep n .givenUp) :=
    .ite ((State.comeToRest_keeps _ _).after ((State.removeEntry_keeps _ _).after (s.setStep_keeps n _))) (s.setStep_keeps n _)
  exact (State.toPanel_keeps _ _).after ((State.modCar_keeps _ _ (fun c => { c with member := none }) (fun _ => rfl) fun _ => rfl).after k)

theorem State.recallFailed_keeps (s : State) (n : CarName) (c : FailCause) : s.Keeps (s.recallFailed n c) :=
  .ite (.refl s) (.ite (s.giveUp_keeps n c) ((State.recallEntry_keeps _ _ _).after (s.setStep_keeps n _)))

theorem State.locate_keeps (s : State) (n : CarName) : s.Keeps (s.locate n) :=
  .ite (s.modCar_keeps n _ (fun _ => rfl) fun _ => rfl) (.ite (.refl s) (s.addEntry_keeps n _ _ _))

theorem State.reclaim_keeps (s : State) (n : CarName) : s.Keeps (s.reclaim n) :=
  (State.locate_keeps _ n).after ((State.setStep_keeps _ _ _).after
    ((State.giveOrder_keeps _ _ _).after (s.modCar_keeps n _ (fun _ => rfl) fun _ => rfl)))

theorem State.cancelGranted_keeps (s : State) (n : CarName) : s.Keeps (s.cancelGranted n) :=
  (State.comeToRest_keeps _ _).after ((State.refuse_keeps _ _ _).after (s.cancelWaiting_keeps n))

theorem State.leaveSet_keeps (s : State) (n : CarName) : s.Keeps (s.leaveSet n) := by
  unfold State.leaveSet
  split
  · next c h =>
    have k : s.Keeps (s.modCar n fun x => { x with member := none }) := s.modCar_keeps n _ (fun _ => rfl) fun _ => rfl
    refine .ite k ?_
    split
    · exact k.trans (State.park_keeps _ _)
    · exact k.trans (State.park_keeps _ _)
    · exact (State.park_keeps _ _).after ((State.cancelGranted_keeps _ _).after k)
    · exact k.trans (State.completeRun_keeps _ _ _)
    · exact k.trans (State.completeRun_keeps _ _ _)
    · exact k.trans (State.completeRun_keeps _ _ _)
    · exact k.trans (State.reclaim_keeps _ _)
    · exact k
  · exact .refl s

theorem State.planAtRest_keeps (s : State) (n : CarName) : s.Keeps (s.planAtRest n) := by
  unfold State.planAtRest
  split
  · exact .ite ((State.modCar_keeps _ _ (fun c => { c with planDue := true }) (fun _ => rfl) fun _ => rfl).after (s.becomeDue_keeps n))
      (s.planFrom_keeps n _)
  · exact .refl s

theorem State.atRestPlan_keeps (s : State) (n : CarName) (moved : Bool) : s.Keeps (s.atRestPlan n moved) := by
  unfold State.atRestPlan
  dsimp only
  repeat' split
  all_goals first
    | exact .refl s
    | exact s.reclaim_keeps n
    | exact (State.reclaim_keeps _ _).after (s.stopDwell_keeps n)
    | exact (State.planAtRest_keeps _ _).after (s.stopDwell_keeps n)
    | exact s.planAtRest_keeps n

theorem State.releaseCar_keeps (s : State) (n : CarName) (m : Option Member) : s.Keeps (s.releaseCar n m) :=
  (State.modCar_keeps _ _ (fun c => { c with member := m, credit := none }) (fun _ => rfl) fun _ => rfl).after ((State.giveOrder_keeps _ _ _).after (s.setStep_keeps n _))

theorem State.fillWith_keeps (s : State) (g : GroupNo) (n : CarName) : s.Keeps (s.fillWith g n) := by
  unfold State.fillWith
  split
  · exact .ite (.refl s) (.ite (s.releaseCar_keeps n _)
      (.ite ((State.modCar_keeps _ _ (fun c => { c with member := some .powering, credit := none }) (fun _ => rfl) fun _ => rfl).after (s.giveOrder_keeps n _)) (.refl s)))
  · exact .refl s

theorem State.fillSet_keeps (s : State) (g : GroupNo) : s.Keeps (s.fillSet g) :=
  .ite (State.Keeps.foldl (fun a n => a.fillWith_keeps g n) _ s) (.refl s)

theorem State.shutCar_keeps (s : State) (n : CarName) : s.Keeps (s.shutCar n) :=
  (State.giveOrder_keeps _ _ _).after (s.setStep_keeps n _)

theorem State.shutParked_keeps (s : State) (g : GroupNo) : s.Keeps (s.shutParked g) :=
  .ite (State.Keeps.foldl (fun a n => .ite (a.shutCar_keeps n) (.refl a)) _ s) (.refl s)

theorem State.fireRelease_keeps (s : State) (n : CarName) : s.Keeps (s.fireRelease n) := .ite (s.releaseCar_keeps n _) (.refl s)

theorem State.endFireRelease_keeps (s : State) (n : CarName) : s.Keeps (s.endFireRelease n) := by
  unfold State.endFireRelease
  split
  · exact .ite (.ite (s.modCar_keeps n _ (fun _ => rfl) fun _ => rfl) (s.leaveSet_keeps n)) (.ite (s.leaveSet_keeps n) (.refl s))
  · exact .refl s

/-! ### The Headroom Monitor -/

theorem State.shedCancel_keeps (s : State) (x : CarName × Permit) : s.Keeps (s.shedCancel x) :=
  .ite (((State.comeToRest_keeps _ _).after ((State.refuse_keeps _ _ _).after (s.cancelWaiting_keeps _))).trans
    (State.refresh_keeps _)) (.refl s)

theorem State.shedShut_keeps (s : State) (n : CarName) : s.Keeps (s.shedShut n) :=
  .ite ((State.modCar_keeps _ _ (fun c => { c with credit := some _ }) (fun _ => rfl) fun _ => rfl).after (s.shutCar_keeps n)) (.refl s)

theorem State.shedCurtail_keeps (s : State) (x : CarName × Permit) : s.Keeps (s.shedCurtail x) :=
  .ite ((State.modCar_keeps _ _ (fun c => { c with credit := some _ }) (fun _ => rfl) fun _ => rfl).after (s.curtailRun_keeps _ _)) (.refl s)

theorem State.shedAlert_keeps (s : State) : s.Keeps s.shedAlert :=
  .ite ((State.toPanel_keeps _ _).after (State.Keeps.of_eq rfl rfl rfl rfl rfl rfl rfl)) (.refl s)

theorem State.shed_keeps (s : State) : s.Keeps s.shed :=
  (State.shedAlert_keeps _).after ((State.Keeps.foldl State.shedCurtail_keeps _ _).after ((State.Keeps.forCars (fun n a => a.shedShut_keeps n) _).after (State.Keeps.foldl State.shedCancel_keeps _ s)))

theorem State.openEpisode_keeps (s : State) : s.Keeps s.openEpisode := by
  unfold State.openEpisode
  split
  · exact .of_eq rfl rfl rfl rfl rfl rfl rfl
  · exact .refl s

theorem State.closeIfWithin_keeps (s : State) : s.Keeps s.closeIfWithin := .ite (.refl s) (.of_eq rfl rfl rfl rfl rfl rfl rfl)

theorem State.examine_keeps (s : State) : s.Keeps s.examine :=
  .ite (.refl s) (.ite ((State.closeIfWithin_keeps _).after ((State.shed_keeps _).after (s.openEpisode_keeps))) (.of_eq rfl rfl rfl rfl rfl rfl rfl))

/-! ### The Selector's operations, but for the grant -/

theorem State.returnEntry_keeps (s : State) (x : CarName × Permit) : s.Keeps (s.returnEntry x) := .ite (.refl s) (s.addEntry_keeps _ _ _ _)

theorem State.returnEntries_keeps (b s : State) : s.Keeps (b.returnEntries s) := .foldl State.returnEntry_keeps _ s

theorem State.preempt_keeps (s : State) (m : PreemptMode) (f : Figures) : s.Keeps (s.preempt m f) := by
  have q : ∀ (a : State) x, a.Keeps (State.preemptQueued f a x) := fun a x =>
    .ite (.refl a) (.ite ((State.refresh_keeps _).after (a.cancelWaiting_keeps _)) (.refl a))
  have r : ∀ (a : State) x, a.Keeps (State.preemptRunning f a x) := fun a x =>
    .ite (.refl a) (.ite (a.curtailRun_keeps _ _) (.refl a))
  unfold State.preempt
  split
  · exact .refl s
  · exact .foldl q _ s
  · exact (State.Keeps.foldl r _ _).after (State.Keeps.foldl q _ s)

theorem State.preemptFor_keeps (s : State) (m : PreemptMode) (e : Option Entry) : s.Keeps (s.preemptFor m e) := by
  unfold State.preemptFor
  split
  · split
    · exact .ite (s.preempt_keeps m _) (.refl s)
    · exact .refl s
  · exact .refl s

theorem State.reviewMark_keeps (s : State) : s.Keeps s.reviewMark := by
  unfold State.reviewMark
  split
  · exact .ite (.refl s) (.of_eq rfl rfl rfl rfl rfl rfl rfl)
  · exact .refl s

theorem State.placeMark_keeps (s : State) (k : RunClass) : s.Keeps (s.placeMark k) := by
  unfold State.placeMark
  split
  · exact .ite (.of_eq rfl rfl rfl rfl rfl rfl rfl) (.refl s)
  · exact .refl s

theorem State.settleMark_keeps (s : State) : s.Keeps s.settleMark := by
  unfold State.settleMark
  split
  · split
    · exact .ite (.refl s) (.of_eq rfl rfl rfl rfl rfl rfl rfl)
    · exact .of_eq rfl rfl rfl rfl rfl rfl rfl
  · exact .refl s

theorem State.returnDeferred_keeps (s : State) : s.Keeps s.returnDeferred := by
  unfold State.returnDeferred
  split
  · next w h =>
    refine .ite ⟨rfl, fun _ => rfl, List.prefix_refl _, .of_cars rfl (fun x hx => ?_) (fun _ => Nat.le_refl _) (Nat.le_refl _)⟩
      (.refl s)
    simp only [State.waiting, Option.toList_none, List.append_nil, List.mem_cons] at hx
    simp only [State.waiting, h, Option.toList_some, List.mem_append, List.mem_singleton]
    exact hx.symm
  · exact .refl s

end Sys2Proof.Machine
end

