-- ==== Sys2Proof/Laws/EndOfEvent.lean ====
section
/-! SUPPORT. What the end of an event can do: State.Ends s t says it once. A proof about a command cites State.endEvent_ends for what
follows the command's own effect, and State.endEvent_quiet where nothing follows. -/

namespace Sys2Proof.Machine

/-- Where the plans have brought a car. -/
structure Course where
  step : RecoveryStep
  order : Option Order
  member : Option Member
  noLanding : Bool

/-- The course of a car. -/
def Car.course (c : Car) : Course := { step := c.step, order := c.order, member := c.member, noLanding := c.noLanding }

/-- The motion state of a car and the action pending against it. -/
def Car.pose (c : Car) : Motion × Option PendingAction := (c.motion, c.pending)

/-- t is what an end of event can leave of s: the phase moves only from RECALL to SERVICE; the other control state, the reported and
held data of every car, the request lists and the mark stay; a settled car keeps its course, an idle one its pose, one
that is both its whole record; a permit can only leave the queue and the
slot, and only by a cancellation of class SERVICE; accounts can only be refunded. -/
structure State.Ends (s t : State) : Prop where
  lasting : t.control.lasting = s.control.lasting
  stage : t.stage = s.stage ∨
    s.phase = .recall ∧ t.stage = (.service, .recallWindow, some (s.inSeconds s.table.site.recallLength))
  body : ∀ n, t.body n = s.body n
  sent : s.outbox <+: t.outbox
  requests : t.requests = s.requests
  mark : t.mark = s.mark
  held : ∀ n, (t.car n).map Car.held = (s.car n).map Car.held
  course : ∀ n, s.Settled n → (t.car n).map Car.course = (s.car n).map Car.course
  pose : ∀ n, s.Idle n → (t.car n).map Car.pose = (s.car n).map Car.pose
  calm : ∀ n, s.Settled n → s.Idle n → t.car n = s.car n
  waits : ∀ w ∈ t.waiting, w ∈ s.waiting
  firm : ∀ n, s.Firm n → ∀ w ∈ s.waiting, w.car = n → w ∈ t.waiting
  accounts : ∀ g : GroupNo, t.accounts[g] ≤ s.accounts[g]
  service : t.serviceAccount ≤ s.serviceAccount
  room : s.queue.length ≤ 4 → t.queue.length ≤ 4

namespace State.Ends

variable {s0 s t : State}

theorem refl (s : State) : s.Ends s :=
  ⟨rfl, .inl rfl, fun _ => rfl, List.prefix_refl _, rfl, rfl, fun _ => rfl, fun _ _ => rfl, fun _ _ => rfl,
    fun _ _ _ => rfl, fun _ h => h, fun _ _ _ h _ => h, fun _ => Nat.le_refl _, Nat.le_refl _, fun h => h⟩

theorem ite {p : Prop} [Decidable p] (h : s0.Ends s) (k : s0.Ends t) : s0.Ends (if p then s else t) := by
  split
  · exact h
  · exact k

theorem foldl {α : Type} {f : State → α → State} {P : α → Prop} (h : ∀ (a : State) x, P x → s0.Ends a → s0.Ends (f a x)) :
    ∀ (l : List α) {s : State}, (∀ x ∈ l, P x) → s0.Ends s → s0.Ends (l.foldl f s)
  | [], _, _, k => k
  | x :: l, _, m, k =>
    foldl h l (fun y hy => m y (List.mem_cons_of_mem _ hy)) (h _ x (m x List.mem_cons_self) k)

/-- One more operation that keeps the control state, the reported data and what was sent. -/
theorem next (k : s0.Ends s) (h : s.Keeps t) (requests : t.requests = s.requests) (mark : t.mark = s.mark)
    (held : ∀ n, (t.car n).map Car.held = (s.car n).map Car.held)
    (course : ∀ n, s0.Settled n → (t.car n).map Car.course = (s.car n).map Car.course)
    (pose : ∀ n, s0.Idle n → (t.car n).map Car.pose = (s.car n).map Car.pose)
    (calm : ∀ n, s0.Settled n → s0.Idle n → t.car n = s.car n)
    (waits : ∀ w ∈ t.waiting, w ∈ s.waiting) (firm : ∀ n, s0.Firm n → ∀ w ∈ s.waiting, w.car = n → w ∈ t.waiting)
    (accounts : ∀ g : GroupNo, t.accounts[g] ≤ s.accounts[g]) (service : t.serviceAccount ≤ s.serviceAccount)
    (room : s.queue.length ≤ 4 → t.queue.length ≤ 4) : s0.Ends t where
  lasting := (congrArg Control.lasting h.control).trans k.lasting
  stage := by
    rw [show t.stage = s.stage from congrArg (fun c : Control => (c.phase, c.window, c.windowTimer)) h.control]
    exact k.stage
  body n := (h.body n).trans (k.body n)
  sent := k.sent.trans h.sent
  requests := requests.trans k.requests
  mark := mark.trans k.mark
  held n := (held n).trans (k.held n)
  course n hn := (course n hn).trans (k.course n hn)
  pose n hn := (pose n hn).trans (k.pose n hn)
  calm n hn hi := (calm n hn hi).trans (k.calm n hn hi)
  waits w hw := k.waits w (waits w hw)
  firm n hn w hw e := firm n hn w (k.firm n hn w hw e) e
  accounts g := Nat.le_trans (accounts g) (k.accounts g)
  service := Nat.le_trans service k.service
  room hr := room (k.room hr)

/-- An operation that changes figures, episode mark and outbox alone. -/
theorem figures (k : s0.Ends s) (h : s.Keeps t) (cars : t.cars = s.cars) (requests : t.requests = s.requests)
    (mark : t.mark = s.mark) (queue : t.queue = s.queue) (slot : t.slot = s.slot) (accounts : t.accounts = s.accounts)
    (service : t.serviceAccount = s.serviceAccount) : s0.Ends t := by
  have w : t.waiting = s.waiting := by unfold State.waiting; rw [queue, slot]
  exact k.next h requests mark (fun n => by rw [State.car_congr cars]) (fun n _ => by rw [State.car_congr cars])
    (fun n _ => by rw [State.car_congr cars]) (fun n _ _ => State.car_congr cars n)
    (fun x hx => w ▸ hx) (fun _ _ x hx _ => w ▸ hx) (fun g => by rw [accounts])
    (service ▸ Nat.le_refl _) (fun hr => queue ▸ hr)

theorem emit (k : s0.Ends s) (p : Port) (m : OutMsg) : s0.Ends (s.emit p m) := by
  unfold State.emit
  split
  · exact k.figures ⟨rfl, fun _ => rfl, List.prefix_append _ _, .of_eq rfl rfl rfl rfl rfl⟩ rfl rfl rfl rfl rfl rfl rfl
  · exact k

theorem setEpisode (k : s0.Ends s) (e : Episode) : s0.Ends { s with episode := e } :=
  k.figures (State.Keeps.of_eq rfl rfl rfl rfl rfl rfl rfl) rfl rfl rfl rfl rfl rfl rfl

theorem queueSelection (k : s0.Ends s) (b : State) : s0.Ends (b.queueSelection s) :=
  k.figures (State.Keeps.of_eq rfl rfl rfl rfl rfl rfl rfl) rfl rfl rfl rfl rfl rfl rfl

theorem queueAdmission (k : s0.Ends s) (b : State) : s0.Ends (b.queueAdmission s) :=
  k.figures (State.Keeps.of_eq rfl rfl rfl rfl rfl rfl rfl) rfl rfl rfl rfl rfl rfl rfl

theorem refresh (k : s0.Ends s) : s0.Ends s.refresh := k.figures s.refresh_keeps rfl rfl rfl rfl rfl rfl rfl

/-- The record of a car is written, with its reported and held data kept, its course too if it was settled, its pose too if it was
idle; it was not both. -/
theorem putCar (k : s0.Ends s) {n : CarName} {c d : Car} (h : s.car n = some c) (b : d.body = c.body) (hd : d.held = c.held)
    (hc : s0.Settled n → d.course = c.course) (hp : s0.Idle n → d.pose = c.pose) (nc : s0.Settled n → ¬ s0.Idle n) :
    s0.Ends (s.putCar n d) := by
  refine k.next (State.putCar_keeps h b (.same (congrArg Held.run hd))) rfl rfl (fun m => ?_) (fun m hm => ?_) (fun m hm => ?_) (fun m hm hi => ?_)
    (fun _ h => h) (fun _ _ _ h _ => h) (fun _ => Nat.le_refl _) (Nat.le_refl _) fun h => h
  · rw [State.car_putCar]
    split
    · next e => subst e; simp [h, hd]
    · rfl
  · rw [State.car_putCar]
    split
    · next e => subst e; simp [h, hc hm]
    · rfl
  · rw [State.car_putCar]
    split
    · next e => subst e; simp [h, hp hm]
    · rfl
  · exact State.car_putCar_ne s (fun e => nc (by rw [e]; exact hm) (by rw [e]; exact hi)) d

/-- A record is written with all but its course kept: its car was not settled. -/
theorem plot (k : s0.Ends s) {n : CarName} {c d : Car} (h : s.car n = some c) (b : d.body = c.body) (hd : d.held = c.held)
    (hp : d.pose = c.pose) (ns : ¬ s0.Settled n) : s0.Ends (s.putCar n d) :=
  k.putCar h b hd (fun q => absurd q ns) (fun _ => hp) (fun q => absurd q ns)

/-- A record is written with all but its pose kept: its car was not idle. -/
theorem move (k : s0.Ends s) {n : CarName} {c d : Car} (h : s.car n = some c) (b : d.body = c.body) (hd : d.held = c.held)
    (hc : d.course = c.course) (ni : ¬ s0.Idle n) : s0.Ends (s.putCar n d) :=
  k.putCar h b hd (fun _ => hc) (fun q => absurd q ni) (fun _ => ni)

theorem modPlot (k : s0.Ends s) (n : CarName) (f : Car → Car) (b : ∀ c, (f c).body = c.body) (hd : ∀ c, (f c).held = c.held)
    (hp : ∀ c, (f c).pose = c.pose) (ns : ¬ s0.Settled n) : s0.Ends (s.modCar n f) := by
  unfold State.modCar
  split
  · next c hc => exact k.plot hc (b c) (hd c) (hp c) ns
  · exact k

theorem modMove (k : s0.Ends s) (n : CarName) (f : Car → Car) (b : ∀ c, (f c).body = c.body) (hd : ∀ c, (f c).held = c.held)
    (hc : ∀ c, (f c).course = c.course) (ni : ¬ s0.Idle n) : s0.Ends (s.modCar n f) := by
  unfold State.modCar
  split
  · next c h => exact k.move h (b c) (hd c) (hc c) ni
  · exact k

theorem giveOrder (k : s0.Ends s) {n : CarName} (o : Order) (ns : ¬ s0.Settled n) : s0.Ends (s.giveOrder n o) := by
  unfold State.giveOrder State.toGroup
  split
  · exact (k.modPlot n (fun c => { c with order := some o }) (fun _ => rfl) (fun _ => rfl) (fun _ => rfl) ns).emit _ _
  · exact k

/-- A car that is PARKED or SHUT now was not settled. -/
theorem not_settled (k : s0.Ends s) {n : CarName} {c : Car} (h : s.car n = some c) (p : c.step = .parked ∨ c.step = .shut) :
    ¬ s0.Settled n := by
  intro hn
  have e := k.course n hn
  rw [h] at e
  cases hc : s0.car n with
  | none => rw [hc] at e; cases e
  | some d =>
    rw [hc] at e
    have e : c.step = d.step := congrArg Course.step (Option.some.inj e)
    have q := hn d hc
    rw [← e] at q
    exact p.elim q.1 q.2

/-- A car that has a run now was not idle. -/
theorem not_idle_of_run (k : s0.Ends s) {n : CarName} {c : Car} (h : s.car n = some c) (p : c.run.isSome) : ¬ s0.Idle n := by
  intro hn
  have e := k.held n
  have r := hn.1
  unfold State.runOf at r
  rw [h] at e
  cases hc : s0.car n with
  | none => rw [hc] at e; cases e
  | some d =>
    rw [hc] at e r
    have e : c.run = d.run := congrArg Held.run (Option.some.inj e)
    have r : d.run = none := r
    rw [e, r] at p
    cases p

/-- A change of step of a PARKED or SHUT car removes no entry: its owner was not GROUP. -/
theorem setStep (k : s0.Ends s) {n : CarName} {c : Car} (h : s.car n = some c) (p : c.step = .parked ∨ c.step = .shut)
    (r : RecoveryStep) : s0.Ends (s.setStep n r) := by
  have o : c.owner ≠ .group := by rcases p with p | p <;> simp [Car.owner, RecoveryStep.owner, p]
  unfold State.setStep
  rw [h]
  simp only [o, false_and, if_false]
  exact k.plot h rfl rfl rfl (k.not_settled h p)

theorem shutCar (k : s0.Ends s) {n : CarName} {c : Car} (h : s.car n = some c) (p : c.step = .parked ∨ c.step = .shut) :
    s0.Ends (s.shutCar n) := (k.setStep h p .shut).giveOrder _ (k.not_settled h p)

theorem releaseCar (k : s0.Ends s) {n : CarName} {c : Car} (h : s.car n = some c) (p : c.step = .parked ∨ c.step = .shut)
    (m : Option Member) : s0.Ends (s.releaseCar n m) :=
  ((k.setStep h p .service).giveOrder _ (k.not_settled h p)).modPlot n (fun c => { c with member := m, credit := none })
    (fun _ => rfl) (fun _ => rfl) (fun _ => rfl) (k.not_settled h p)

theorem carIs_some {n : CarName} {p : Car → Bool} (h : s.carIs n p = true) : ∃ c, s.car n = some c ∧ p c = true := by
  unfold State.carIs at h
  split at h
  · next c hc => exact ⟨c, hc, h⟩
  · cases h

theorem fillWith (k : s0.Ends s) (g : GroupNo) (n : CarName) : s0.Ends (s.fillWith g n) := by
  unfold State.fillWith
  split
  · next c h =>
    split
    · exact k
    · split
      · next p =>
        simp only [Bool.and_eq_true, decide_eq_true_eq] at p
        exact k.releaseCar h (.inl p.1) _
      · split
        · next p =>
          simp only [Bool.and_eq_true, decide_eq_true_eq] at p
          have nc := k.not_settled h (.inr p.1.1.1)
          exact (k.giveOrder _ nc).modPlot n (fun c => { c with member := some .powering, credit := none })
            (fun _ => rfl) (fun _ => rfl) (fun _ => rfl) nc
        · exact k
  · exact k

theorem fillSet (k : s0.Ends s) (g : GroupNo) : s0.Ends (s.fillSet g) :=
  .ite (foldl (P := fun _ => True) (fun _ n _ h => h.fillWith g n) _ (fun _ _ => trivial) k) k

theorem shutParked (k : s0.Ends s) (g : GroupNo) : s0.Ends (s.shutParked g) := by
  refine .ite (foldl (P := fun _ => True) (fun a n _ h => ?_) _ (fun _ _ => trivial) k) k
  split
  · next p =>
    obtain ⟨c, hc, q⟩ := carIs_some p
    simp only [Bool.and_eq_true, decide_eq_true_eq] at q
    exact h.shutCar hc (.inl q.1)
  · exact h

theorem fireRelease (k : s0.Ends s) (n : CarName) : s0.Ends (s.fireRelease n) := by
  unfold State.fireRelease
  split
  · next p =>
    simp only [Bool.and_eq_true] at p
    obtain ⟨c, hc, q⟩ := carIs_some p.2
    simp only [Bool.and_eq_true, decide_eq_true_eq] at q
    exact k.releaseCar hc (.inl q.1.1) _
  · exact k

theorem serveGroup (k : s0.Ends s) (g : GroupNo) : s0.Ends (s.serveGroup g) :=
  ((foldl (P := fun _ => True) (fun _ n _ h => h.fireRelease n) _ (fun _ _ => trivial) (k.fillSet g)).shutParked g).fillSet g

theorem forCars {f : CarName → State → State} (h : ∀ n (a : State), s0.Ends a → s0.Ends (f n a)) (k : s0.Ends s) :
    s0.Ends (s.forCars f) := foldl (P := fun _ => True) (fun a n _ ha => h n a ha) carNames (fun _ _ => trivial) k

/-! ### Shedding -/

theorem cancelWaiting (k : s0.Ends s) {n : CarName} (nf : ¬ s0.Firm n) : s0.Ends (s.cancelWaiting n) := by
  unfold State.cancelWaiting
  split
  · next w hw =>
    exact k.next (s.refundDrop_keeps n w.permit) rfl rfl (fun _ => rfl) (fun _ _ => rfl) (fun _ _ => rfl) (fun _ _ _ => rfl)
      (fun x hx => ((State.mem_waiting_dropWaiting _ n x).1 hx).1)
      (fun m hm x hx e => (State.mem_waiting_dropWaiting _ n x).2 ⟨hx, fun h => nf (by rw [← h, e]; exact hm)⟩)
      (fun g => s.refund_le n w.permit g) (Nat.sub_le _ _)
      (fun hr => Nat.le_trans (List.length_filter_le _ _) hr)
  · exact k

theorem mem_insertYoungest {x y : CarName × Permit} : ∀ {l : List (CarName × Permit)}, y ∈ insertYoungest x l → y = x ∨ y ∈ l
  | [], h => by simpa [insertYoungest] using h
  | z :: l, h => by
    unfold insertYoungest at h
    split at h
    · simpa using h
    · rcases List.mem_cons.1 h with h | h
      · simp [h]
      · rcases mem_insertYoungest h with h | h <;> simp [h]

theorem mem_youngestFirst {x : CarName × Permit} : ∀ {l : List (CarName × Permit)}, x ∈ youngestFirst l → x ∈ l
  | [], h => h
  | y :: l, h => by
    rcases mem_insertYoungest (l := youngestFirst l) h with h | h
    · simp [h]
    · exact List.mem_cons_of_mem _ (mem_youngestFirst h)

/-- A car that waits with a SERVICE permit is neither firm nor idle. -/
theorem not_firm_of_mem {x : CarName × Permit} (h : x ∈ s.waitingService) : ¬ s.Firm x.1 ∧ ¬ s.Idle x.1 := by
  obtain ⟨w, hw, rfl⟩ := List.mem_map.1 (mem_youngestFirst h)
  obtain ⟨hw, hc⟩ := List.mem_filter.1 hw
  exact ⟨fun f => f w hw rfl (by simpa using hc), fun f => f.2 w hw rfl⟩

theorem shedCancel (k : s0.Ends s) (x : CarName × Permit) (nf : ¬ s0.Firm x.1) (ni : ¬ s0.Idle x.1) : s0.Ends (s.shedCancel x) :=
  .ite ((((k.cancelWaiting nf).emit _ _).modMove x.1 (fun c => { c with motion := c.restMotion }) (fun _ => rfl)
    (fun _ => rfl) (fun _ => rfl) ni).refresh) k

theorem shedShut (k : s0.Ends s) (n : CarName) : s0.Ends (s.shedShut n) := by
  unfold State.shedShut
  split
  · next p =>
    simp only [Bool.and_eq_true] at p
    obtain ⟨c, hc, q⟩ := carIs_some p.2
    simp only [Car.mayShed, Bool.and_eq_true, decide_eq_true_eq] at q
    have q := Or.inl (b := c.step = .shut) q.1.1.1
    exact (k.shutCar hc q).modPlot n (fun c => { c with credit := some _ }) (fun _ => rfl) (fun _ => rfl) (fun _ => rfl)
      (k.not_settled hc q)
  · exact k

theorem curtailRun (k : s0.Ends s) {n : CarName} (f : FollowUps) (ni : ¬ s0.Idle n) : s0.Ends (s.curtailRun n f) := by
  unfold State.curtailRun
  split
  · next c h =>
    split
    · next r hr =>
      have a := k.move (d := { c with pending := some (combineAction c.pending .curtail f r.permit) }) h rfl rfl rfl ni
      have b := k.move (d := { c with
        pending := some (combineAction c.pending .curtail f r.permit), motion := .stopping }) h rfl rfl rfl ni
      exact .ite (b.emit _ _) a
    · exact k
  · exact k

theorem shedCurtail (k : s0.Ends s) (x : CarName × Permit) (ni : ¬ s0.Idle x.1) : s0.Ends (s.shedCurtail x) :=
  .ite ((k.curtailRun _ ni).modMove x.1 (fun c => { c with credit := some _ }) (fun _ => rfl) (fun _ => rfl) (fun _ => rfl) ni) k

/-- A car listed with a run in flight has a run. -/
theorem run_of_mem {x : CarName × Permit} (h : x ∈ s.runningService) : ∃ c, s.car x.1 = some c ∧ c.run.isSome := by
  obtain ⟨n, -, hn⟩ := List.mem_filterMap.1 (mem_youngestFirst h)
  split at hn
  · next c hc =>
    split at hn
    · next r hr =>
      split at hn
      · cases hn
        exact ⟨c, hc, by simp [hr]⟩
      · cases hn
    · cases hn
  · cases hn

theorem shed (k : s0.Ends s) (nw : ∀ x ∈ s.waitingService, ¬ s0.Firm x.1 ∧ ¬ s0.Idle x.1) : s0.Ends s.shed := by
  have a : s0.Ends s.shedQueued := foldl (fun _ x p h => h.shedCancel x p.1 p.2) _ nw k
  have b : s0.Ends s.shedQueued.shedParked := a.forCars fun n _ h => h.shedShut n
  have c : s0.Ends s.shedQueued.shedParked.shedRuns := foldl (fun _ x p h => h.shedCurtail x p) _
    (fun x hx => by obtain ⟨c, hc, hr⟩ := run_of_mem hx; exact b.not_idle_of_run hc hr) b
  unfold State.shed State.shedAlert
  split
  · exact (c.setEpisode _).emit _ _
  · exact c

theorem examine (k : s0.Ends s) (nw : ∀ x ∈ s.waitingService, ¬ s0.Firm x.1 ∧ ¬ s0.Idle x.1) : s0.Ends s.examine := by
  unfold State.examine
  split
  · exact k
  · split
    · have h : s0.Ends s.openEpisode.shed := by
        unfold State.openEpisode
        split
        · exact (k.setEpisode _).shed nw
        · exact k.shed nw
      unfold State.closeIfWithin
      exact .ite h (h.setEpisode _)
    · exact k.setEpisode _

theorem returnDeferred (k : s0.Ends s) : s0.Ends s.returnDeferred := by
  unfold State.returnDeferred
  split
  · next w hw =>
    split
    · next p =>
      simp only [Bool.and_eq_true, decide_eq_true_eq] at p
      have m : ∀ x, x ∈ ({ s with queue := w :: s.queue, slot := none } : State).waiting ↔ x ∈ s.waiting := fun x => by
        simp [State.waiting, hw, or_comm]
      exact k.next ⟨rfl, fun _ => rfl, List.prefix_refl _,
        .of_cars rfl (fun x hx => (m x).1 hx) (fun _ => Nat.le_refl _) (Nat.le_refl _)⟩ rfl rfl (fun _ => rfl) (fun _ _ => rfl) (fun _ _ => rfl)
        (fun _ _ _ => rfl) (fun x hx => (m x).1 hx)
        (fun _ _ x hx _ => (m x).2 hx) (fun _ => Nat.le_refl _) (Nat.le_refl _) (fun _ => p.1)
    · exact k
  · exact k

/-- The waiting SERVICE permits of a state whose waiting permits are those of s0 belong to cars neither firm nor idle in s0. -/
theorem waitingService_of_waits (k : s0.Ends s) : ∀ x ∈ s.waitingService, ¬ s0.Firm x.1 ∧ ¬ s0.Idle x.1 := by
  intro x hx
  obtain ⟨w, hw, rfl⟩ := List.mem_map.1 (mem_youngestFirst hx)
  obtain ⟨hw, hc⟩ := List.mem_filter.1 hw
  have h0 := k.waits w hw
  exact ⟨fun f => f w h0 rfl (by simpa using hc), fun f => f.2 w h0 rfl⟩

end State.Ends

/-! ### The end of an event -/

theorem State.settleQueue_ends {s0 a s : State} (k : a.Ends s) : a.Ends (s0.settleQueue s) := .ite k k.returnDeferred

theorem State.settle_ends (s0 s : State) : s.Ends (s0.settle s) := by
  have a := (s0.settleQueue_ends (State.Ends.refl s)).refresh
  refine s0.settleQueue_ends ?_
  exact .ite (a.examine a.waitingService_of_waits).refresh a

/-- The change to SERVICE, from RECALL. -/
theorem State.Ends.enterService {a s : State} (k : a.Ends s) (h : s.phase = .recall) : a.Ends s.enterService := by
  have e : a.Ends { s with
      phase := .service, window := .recallWindow, windowTimer := some (s.inSeconds s.table.site.recallLength) } := by
    have ha : a.phase = .recall := by
      rcases k.stage with q | q
      · exact (congrArg (fun x : Phase × Window × Option Nat => x.1) q).symm.trans h
      · exact q.1
    refine ⟨k.lasting, .inr ⟨ha, ?_⟩, k.body, k.sent, k.requests, k.mark, k.held, k.course, k.pose, k.calm, k.waits, k.firm, k.accounts, k.service,
      k.room⟩
    have n : s.now = a.now := congrArg Control.now k.lasting
    have tb : s.table = a.table := congrArg Control.table k.lasting
    simp only [State.stage, State.inSeconds, n, tb]
  unfold State.enterService State.phaseNotice State.toPanel
  exact (State.Ends.foldl (P := fun _ => True) (fun _ g _ h => h.emit _ _) _ (fun _ _ => trivial) e).emit _ _

theorem State.endRecall_ends {s0 a s : State} (k : a.Ends s) : a.Ends (s0.endRecall s) := by
  unfold State.endRecall
  split
  · next p =>
    simp only [Bool.and_eq_true, decide_eq_true_eq] at p
    exact k.enterService p.1.1
  · exact k

theorem State.serveGroups_ends {s0 a s : State} (ended : Bool) (asked : Option GroupNo) (k : a.Ends s) :
    a.Ends (s0.serveGroups ended asked s) :=
  .ite (State.Ends.foldl (P := fun _ => True) (fun _ g _ h => .ite (h.serveGroup g) h) _ (fun _ _ => trivial) k) k

theorem State.releaseFires_ends {s0 a s : State} (k : a.Ends s) : a.Ends (s0.releaseFires s) :=
  k.forCars fun n _ h => .ite h (h.fireRelease n)

theorem State.follow_ends {s0 a s : State} (ended : Bool) (asked : Option GroupNo) (k : a.Ends s) : a.Ends (s0.follow ended asked s) :=
  State.releaseFires_ends (State.serveGroups_ends ended asked (State.endRecall_ends k))

theorem State.announceCars_ends {s0 a s : State} (k : a.Ends s) : a.Ends (s0.announceCars s) := by
  unfold State.announceCars
  refine k.forCars fun n b h => ?_
  split
  · exact .ite h (h.emit _ _)
  · exact h

theorem State.announceLoad_ends {s0 a s : State} (always : Bool) (k : a.Ends s) : a.Ends (s0.announceLoad always s) :=
  .ite k (k.emit _ _)

/-- What an event's evaluation of the CLEAR condition can do: nothing, or send CLEAR and mark it sent, where none was sent before and the
condition holds (R152). -/
theorem State.clearAfter_cases (s0 s : State) :
    s0.clearAfter s = s ∨ ∃ h, s.handshake = some h ∧ s.phase = .preTransfer ∧ h.clearSent = false ∧ s.clearCondition h.kind = true ∧
      s.powerLink.up = true ∧ s0.clearAfter s = { s with
        handshake := some { h with clearSent := true }, preTimer := none,
        outbox := s.outbox ++ [(.link .power, .clear false h.kind 0)] } := by
  unfold State.clearAfter State.tryClear
  split
  · split
    · next h e =>
      split
      · next p =>
        simp only [Bool.and_eq_true, decide_eq_true_eq, Bool.not_eq_true'] at p
        refine .inr ⟨h, e, p.1.1.1, p.1.1.2, p.1.2, p.2, ?_⟩
        have u : s.powerLink.up = true := p.2
        simp [State.toPower, State.emit, State.portUp, State.linkUp, u]
      · exact .inl rfl
    · exact .inl rfl
  · exact .inl rfl

theorem State.clearAfter_shape (s0 s : State) : ∃ h p o, s0.clearAfter s = { s with handshake := h, preTimer := p, outbox := o } := by
  rcases s0.clearAfter_cases s with e | ⟨h, -, -, -, -, -, e⟩
  · exact ⟨_, _, _, e⟩
  · exact ⟨_, _, _, e⟩

/-- What the end of an event can leave of the state that its evaluation of the CLEAR condition has left. -/
theorem State.endEvent_ends (s0 s : State) (load : Bool) (asked : Option GroupNo) : (s0.clearAfter s).Ends (s0.endEvent s load asked) :=
  ((State.announceLoad_ends load (State.announceCars_ends
    (State.follow_ends _ asked (s0.settle_ends _)).refresh)).queueSelection s0).queueAdmission s0

/-! ### The figures after an event -/

theorem State.emit_silent (s : State) (p : Port) (m : OutMsg) : (s.emit p m).silent = s.silent := by
  unfold State.emit State.silent; split <;> rfl

theorem State.announceCars_silent (s0 s : State) : (s0.announceCars s).silent = s.silent := by
  have h : ∀ (l : List CarName) (a : State), (l.foldl (fun acc n => match s.car n with
      | some c => if (s0.car n).map (s0.summary n) = some (s.summary n c) then acc else acc.toPanel (.car (s.summary n c))
      | none => acc) a).silent = a.silent := by
    intro l
    induction l with
    | nil => intro a; rfl
    | cons n l ih =>
      intro a
      rw [List.foldl_cons, ih]
      split
      · split
        · rfl
        · exact State.emit_silent _ _ _
      · rfl
  exact h carNames s

theorem State.announceLoad_silent (s0 s : State) (always : Bool) : (s0.announceLoad always s).silent = s.silent := by
  unfold State.announceLoad
  split
  · rfl
  · exact State.emit_silent _ _ _

theorem State.refresh_refresh (s : State) : s.refresh.refresh = s.refresh := rfl

theorem State.refresh_silent (s : State) : s.refresh.silent = s.silent.refresh := rfl

/-- Whether a selection is due shows in no other part of the state. -/
theorem State.queueSelection_silent (s0 s : State) : (s0.queueSelection s).silent = s.silent := rfl

/-- Whether an admission attempt is due shows in no other part of the state. -/
theorem State.queueAdmission_silent (s0 s : State) : (s0.queueAdmission s).silent = s.silent := rfl

/-- Whether the figures agree does not depend on what was sent. -/
theorem State.fresh_of_silent {s t : State} (h : t.silent = s.silent) (k : s.Fresh) : t.Fresh := by
  have e : t = { s with outbox := t.outbox, selectionDue := t.selectionDue, admissionDue := t.admissionDue } := by
    have : t = { t.silent with outbox := t.outbox, selectionDue := t.selectionDue, admissionDue := t.admissionDue } := rfl
    rw [this, h]; rfl
  have r : ({ s with outbox := t.outbox, selectionDue := t.selectionDue, admissionDue := t.admissionDue } : State).refresh =
      { s.refresh with outbox := t.outbox, selectionDue := t.selectionDue, admissionDue := t.admissionDue } := rfl
  unfold State.Fresh
  rw [e, r, k]

/-- At the end of every event the figures agree with what they are formed from. -/
theorem State.endEvent_fresh (s0 s : State) (load : Bool) (asked : Option GroupNo) : (s0.endEvent s load asked).Fresh :=
  State.fresh_of_silent ((s0.queueAdmission_silent _).trans ((s0.queueSelection_silent _).trans
    ((State.announceLoad_silent _ _ _).trans (State.announceCars_silent _ _)))) (State.refresh_refresh _)

/-! ### Events after which nothing follows -/

/-- s has the cars, the waiting permits, the phase, the figures and the episode mark of s0, no staged profile has become active, and the
evaluation of the CLEAR condition finds nothing to send. -/
structure State.Quiet (s0 s : State) : Prop where
  cars : s.cars = s0.cars
  queue : s.queue = s0.queue
  slot : s.slot = s0.slot
  phase : s.phase = s0.phase
  figures : (s.usable, s.absorbRoom, s.bl, s.ml, s.rl, s.peak, s.stepMax) =
    (s0.usable, s0.absorbRoom, s0.bl, s0.ml, s0.rl, s0.peak, s0.stepMax)
  episode : s.episode = s0.episode
  staged : s0.activated s = false
  clear : s0.clearAfter s = s

theorem State.Quiet.car {s0 s : State} (q : s0.Quiet s) (n : CarName) : s.car n = s0.car n := State.car_congr q.cars n

theorem State.Quiet.summary {s0 s : State} (q : s0.Quiet s) (n : CarName) (c : Car) : s.summary n c = s0.summary n c := by
  have l : s.livePermit n = s0.livePermit n := by
    unfold State.livePermit State.runOf
    rw [q.car, q.queue, q.slot]
  unfold State.summary
  rw [l]

theorem State.forCars_id {f : CarName → State → State} {s : State} (h : ∀ n, f n s = s) : s.forCars f = s := by
  unfold State.forCars
  induction carNames with
  | nil => rfl
  | cons n l ih => rw [List.foldl_cons, h, ih]

theorem State.foldl_id {α : Type} {f : State → α → State} {s : State} (h : ∀ x, f s x = s) (l : List α) : l.foldl f s = s := by
  induction l with
  | nil => rfl
  | cons x l ih => rw [List.foldl_cons, h, ih]

theorem State.announceCars_quiet {s0 s : State} (q : s0.Quiet s) : s0.announceCars s = s := by
  refine State.forCars_id fun n => ?_
  cases h : s.car n with
  | none => rfl
  | some c => rw [← q.car, h]; simp [q.summary]

theorem State.serveGroups_quiet {s0 s : State} (q : s0.Quiet s) : s0.serveGroups false none s = s := by
  unfold State.serveGroups
  split
  · next p =>
    refine State.foldl_id (fun g => ?_) _
    have f := q.figures
    simp only [Prod.mk.injEq] at f
    have e : ∀ n, s0.freesPlace s n = false := fun n => by
      unfold State.freesPlace
      rw [q.car]
      cases s0.car n <;> simp
    have d : s0.fillDue s false none g = false := by
      simp [State.fillDue, e, f, ← q.phase, p]
    simp [d]
  · rfl

/-- Nothing but the part's own decisions follows an event that changed no car, no waiting permit, no figure, no phase and no episode,
activated no profile and made no clearance. -/
theorem State.endEvent_quiet {s0 s : State} (q : s0.Quiet s) (h : s.Fresh) :
    s0.endEvent s = s0.queueAdmission (s0.queueSelection s) := by
  have f := q.figures
  simp only [Prod.mk.injEq] at f
  have a : s0.settleQueue s = s := by simp [State.settleQueue, q.queue]
  have b : s0.limitsMoved s = false := by simp [State.limitsMoved, f]
  have x : s0.examined s = s := by simp [State.examined, a, show s.refresh = s from h]
  have c : s0.settle s = s := by simp [State.settle, State.examineChange, x, a, b, q.staged]
  have k : s0.episodeEnds s = false := by
    simp only [State.episodeEnds, x, c, b, q.staged, q.episode]
    cases s0.episode <;> simp
  have v : ∀ n, s.recallView n = s0.recallView n := fun n => by unfold State.recallView; rw [q.car]
  have d : s0.endRecall s = s := by
    unfold State.endRecall
    split
    · next p =>
      simp only [Bool.and_eq_true, decide_eq_true_eq, Bool.or_eq_true, List.any_eq_true] at p
      rcases p.1.2 with p' | ⟨n, -, p'⟩
      · exact absurd (q.phase.symm.trans p.1.1) p'
      · exact absurd (v n) p'
    · rfl
  have e : s0.releaseFires s = s := State.forCars_id fun n => by simp [q.car, q.phase]
  unfold State.endEvent State.follow
  simp only [q.clear, k, c, d, State.serveGroups_quiet q, e, show s.refresh = s from h, State.announceCars_quiet q]
  simp [State.announceLoad, f]

end Sys2Proof.Machine
end

