-- ==== Sys2Proof/Laws/Links.lean ====
section
/-! SUPPORT. What a good frame does to the state before its message is taken (R153, R159): the link's record, and on the power link
perhaps the awaited clearance; nothing else but messages. -/

namespace Sys2Proof.Machine

/-- All but the outbox is the same. -/
theorem State.emit_shape (s : State) (p : Port) (m : OutMsg) : ∃ o, s.emit p m = { s with outbox := o } := by
  unfold State.emit; split
  · exact ⟨_, rfl⟩
  · exact ⟨s.outbox, rfl⟩

/-- A run of operations that only send. -/
theorem State.foldl_shape {α : Type} {f : State → α → State} (h : ∀ a x, ∃ o, f a x = { a with outbox := o }) (l : List α) :
    ∀ s : State, ∃ o, l.foldl f s = { s with outbox := o } := by
  induction l with
  | nil => exact fun s => ⟨s.outbox, rfl⟩
  | cons x l ih =>
    intro s
    obtain ⟨o, e⟩ := h s x
    obtain ⟨o', e'⟩ := ih (f s x)
    exact ⟨o', by rw [List.foldl_cons, e', e]⟩

theorem State.sendCars_shape (s : State) : ∃ o, s.sendCars = { s with outbox := o } := by
  unfold State.sendCars State.forCars
  refine State.foldl_shape (fun a n => ?_) carNames s
  dsimp only
  split
  · exact a.emit_shape _ _
  · exact ⟨a.outbox, rfl⟩

theorem State.resendOrders_shape (s : State) (g : GroupNo) : ∃ o, s.resendOrders g = { s with outbox := o } := by
  unfold State.resendOrders
  refine State.foldl_shape (fun a n => ?_) (groupCars g) s
  split
  · exact a.emit_shape _ _
  · exact ⟨a.outbox, rfl⟩

theorem State.tryClear_shape (s : State) : ∃ h p o, s.tryClear = { s with handshake := h, preTimer := p, outbox := o } := by
  unfold State.tryClear
  split
  · split
    · obtain ⟨o, e⟩ := State.emit_shape _ _ _
      exact ⟨_, _, o, e⟩
    · exact ⟨_, _, _, rfl⟩
  · exact ⟨_, _, _, rfl⟩

theorem State.forceClear_shape (s : State) (x : Handshake) :
    ∃ h p o, s.forceClear x = { s with handshake := h, preTimer := p, outbox := o } := by
  obtain ⟨o, e⟩ := State.emit_shape { s with handshake := some { x with clearSent := true } } (.link .power)
    (.clear true x.kind ({ s with handshake := some { x with clearSent := true } } : State).movingCount)
  exact ⟨_, _, o, e⟩

theorem State.awaitedClear_shape (s : State) : ∃ h p o, s.awaitedClear = { s with handshake := h, preTimer := p, outbox := o } := by
  obtain ⟨h, p, o, e⟩ := s.tryClear_shape
  unfold State.awaitedClear
  dsimp only
  split
  · split
    · obtain ⟨h', p', o', e'⟩ := State.forceClear_shape s.tryClear ‹_›
      exact ⟨h', p', o', by rw [e', e]⟩
    · exact ⟨h, p, o, e⟩
  · exact ⟨h, p, o, e⟩

/-- The return of a link only sends and tells the Selector, but for the awaited clearance of the power link. -/
theorem State.linkReturned_sends (s : State) (l : LinkId) (q : l ≠ .power ∨ s.handshake = none) :
    ∃ o d, s.linkReturned l = { s with outbox := o, selectionDue := d } := by
  have next : ∀ (t u : State), (∃ o d, t = { s with outbox := o, selectionDue := d }) → (∃ o, u = { t with outbox := o }) →
      ∃ o d, u = { s with outbox := o, selectionDue := d } :=
    fun t u ⟨o, d, e⟩ ⟨o', e'⟩ => ⟨o', d, by rw [e', e]⟩
  cases l with
  | power =>
    have h : s.handshake = none := q.resolve_left fun n => n rfl
    obtain ⟨o, e⟩ := s.emit_shape (.link .power) (.load s.usable s.bl s.ml s.rl)
    have e' : s.sendLoad = { s with outbox := o } := e
    have c : s.sendLoad.tryClear = s.sendLoad := by unfold State.tryClear; rw [e']; simp [h]
    have d : s.sendLoad.awaitedClear = s.sendLoad := by unfold State.awaitedClear; dsimp only; rw [c, e']; simp [h]
    exact ⟨o, s.selectionDue, d.trans e'⟩
  | group g =>
    have z : ∃ o d, s.askSelection = { s with outbox := o, selectionDue := d } := ⟨s.outbox, true, rfl⟩
    have a := next _ _ (next _ _ z (State.emit_shape _ (.link (.group g)) (.phase s.phase s.window))) (State.resendOrders_shape _ g)
    unfold State.linkReturned
    dsimp only
    split
    · exact next _ _ a (State.emit_shape _ _ _)
    · exact a
  | panel =>
    have z : ∃ o d, s = { s with outbox := o, selectionDue := d } := ⟨s.outbox, s.selectionDue, rfl⟩
    have a := next _ _ (next _ _ z (s.emit_shape (.link .panel) (.phase s.phase s.window))) (State.sendCars_shape _)
    have b : ∀ (t : State) (c : Prop) [Decidable c] (m : OutMsg), (∃ o d, t = { s with outbox := o, selectionDue := d }) →
        ∃ o d, (if c then t.toPanel m else t) = { s with outbox := o, selectionDue := d } := fun t c _ m h => by
      split
      · exact next _ _ h (State.emit_shape _ _ _)
      · exact h
    unfold State.linkReturned
    dsimp only
    split
    · exact next _ _ (b _ _ _ (b _ _ _ a)) (State.emit_shape _ _ _)
    · exact b _ _ _ (b _ _ _ a)

theorem State.linkReturned_shape (s : State) (l : LinkId) :
    ∃ h p o d, s.linkReturned l = { s with handshake := h, preTimer := p, outbox := o, selectionDue := d } := by
  have lift : ∀ t : State, (∃ o d, t = { s with outbox := o, selectionDue := d }) →
      ∃ h p o d, t = { s with handshake := h, preTimer := p, outbox := o, selectionDue := d } :=
    fun t ⟨o, d, e⟩ => ⟨s.handshake, s.preTimer, o, d, e⟩
  cases l with
  | power =>
    obtain ⟨o, e⟩ := s.emit_shape (.link .power) (.load s.usable s.bl s.ml s.rl)
    obtain ⟨h, p, o', e'⟩ := State.awaitedClear_shape s.sendLoad
    exact ⟨h, p, o', s.selectionDue, by unfold State.linkReturned; rw [e']; unfold State.sendLoad State.toPower; rw [e]⟩
  | group g => exact lift _ (s.linkReturned_sends _ (.inl (by simp)))
  | panel => exact lift _ (s.linkReturned_sends _ (.inl (by simp)))

/-- A good frame changes nothing but the link's record, the awaited clearance, what is sent, and whether a selection is due. -/
theorem State.goodFrame_shape (s : State) (l : LinkId) :
    ∃ h p o d, s.goodFrame l = { s.setLink l { up := true, silence := some (s.now + silenceTime l) } with
      handshake := h, preTimer := p, outbox := o, selectionDue := d } := by
  unfold State.goodFrame
  dsimp only
  split
  · exact ⟨_, _, _, _, rfl⟩
  · exact State.linkReturned_shape _ l

/-- A good frame changes nothing but the link's record, what is sent and whether a selection is due, but for the awaited clearance of the
power link. -/
theorem State.goodFrame_sends (s : State) (l : LinkId) (q : l ≠ .power ∨ s.powerLink.up = true ∨ s.handshake = none) :
    ∃ o d, s.goodFrame l = { s.setLink l { up := true, silence := some (s.now + silenceTime l) } with
      outbox := o, selectionDue := d } := by
  unfold State.goodFrame
  dsimp only
  split
  · exact ⟨_, _, rfl⟩
  · next d =>
    cases l with
    | power => exact State.linkReturned_sends _ _ (.inr ((q.resolve_left fun n => n rfl).resolve_left d))
    | group g => exact State.linkReturned_sends _ _ (.inl (by simp))
    | panel => exact State.linkReturned_sends _ _ (.inl (by simp))

@[simp] theorem State.goodFrame_phase (s : State) (l : LinkId) : (s.goodFrame l).phase = s.phase := by
  obtain ⟨h, p, o, d, e⟩ := s.goodFrame_shape l; rw [e]; cases l <;> rfl
@[simp] theorem State.goodFrame_takeover (s : State) (l : LinkId) : (s.goodFrame l).takeover = s.takeover := by
  obtain ⟨h, p, o, d, e⟩ := s.goodFrame_shape l; rw [e]; cases l <;> rfl
@[simp] theorem State.goodFrame_cars (s : State) (l : LinkId) : (s.goodFrame l).cars = s.cars := by
  obtain ⟨h, p, o, d, e⟩ := s.goodFrame_shape l; rw [e]; cases l <;> rfl
@[simp] theorem State.goodFrame_offered (s : State) (l : LinkId) : (s.goodFrame l).offered = s.offered := by
  obtain ⟨h, p, o, d, e⟩ := s.goodFrame_shape l; rw [e]; cases l <;> rfl
@[simp] theorem State.goodFrame_absorb (s : State) (l : LinkId) : (s.goodFrame l).absorb = s.absorb := by
  obtain ⟨h, p, o, d, e⟩ := s.goodFrame_shape l; rw [e]; cases l <;> rfl
@[simp] theorem State.goodFrame_usable (s : State) (l : LinkId) : (s.goodFrame l).usable = s.usable := by
  obtain ⟨h, p, o, d, e⟩ := s.goodFrame_shape l; rw [e]; cases l <;> rfl
@[simp] theorem State.goodFrame_absorbRoom (s : State) (l : LinkId) : (s.goodFrame l).absorbRoom = s.absorbRoom := by
  obtain ⟨h, p, o, d, e⟩ := s.goodFrame_shape l; rw [e]; cases l <;> rfl
@[simp] theorem State.goodFrame_stepMax (s : State) (l : LinkId) : (s.goodFrame l).stepMax = s.stepMax := by
  obtain ⟨h, p, o, d, e⟩ := s.goodFrame_shape l; rw [e]; cases l <;> rfl
@[simp] theorem State.goodFrame_peak (s : State) (l : LinkId) : (s.goodFrame l).peak = s.peak := by
  obtain ⟨h, p, o, d, e⟩ := s.goodFrame_shape l; rw [e]; cases l <;> rfl
@[simp] theorem State.goodFrame_bl (s : State) (l : LinkId) : (s.goodFrame l).bl = s.bl := by
  obtain ⟨h, p, o, d, e⟩ := s.goodFrame_shape l; rw [e]; cases l <;> rfl
@[simp] theorem State.goodFrame_ml (s : State) (l : LinkId) : (s.goodFrame l).ml = s.ml := by
  obtain ⟨h, p, o, d, e⟩ := s.goodFrame_shape l; rw [e]; cases l <;> rfl
@[simp] theorem State.goodFrame_rl (s : State) (l : LinkId) : (s.goodFrame l).rl = s.rl := by
  obtain ⟨h, p, o, d, e⟩ := s.goodFrame_shape l; rw [e]; cases l <;> rfl
@[simp] theorem State.goodFrame_clamp (s : State) (l : LinkId) : (s.goodFrame l).clamp = s.clamp := by
  obtain ⟨h, p, o, d, e⟩ := s.goodFrame_shape l; rw [e]; cases l <;> rfl
@[simp] theorem State.goodFrame_blHeld (s : State) (l : LinkId) : (s.goodFrame l).blHeld = s.blHeld := by
  obtain ⟨h, p, o, d, e⟩ := s.goodFrame_shape l; rw [e]; cases l <;> rfl
@[simp] theorem State.goodFrame_episode (s : State) (l : LinkId) : (s.goodFrame l).episode = s.episode := by
  obtain ⟨h, p, o, d, e⟩ := s.goodFrame_shape l; rw [e]; cases l <;> rfl
@[simp] theorem State.goodFrame_accounts (s : State) (l : LinkId) : (s.goodFrame l).accounts = s.accounts := by
  obtain ⟨h, p, o, d, e⟩ := s.goodFrame_shape l; rw [e]; cases l <;> rfl
@[simp] theorem State.goodFrame_serviceAccount (s : State) (l : LinkId) : (s.goodFrame l).serviceAccount = s.serviceAccount := by
  obtain ⟨h, p, o, d, e⟩ := s.goodFrame_shape l; rw [e]; cases l <;> rfl
@[simp] theorem State.goodFrame_groupOrder (s : State) (l : LinkId) : (s.goodFrame l).groupOrder = s.groupOrder := by
  obtain ⟨h, p, o, d, e⟩ := s.goodFrame_shape l; rw [e]; cases l <;> rfl
@[simp] theorem State.goodFrame_window (s : State) (l : LinkId) : (s.goodFrame l).window = s.window := by
  obtain ⟨h, p, o, d, e⟩ := s.goodFrame_shape l; rw [e]; cases l <;> rfl
@[simp] theorem State.goodFrame_windowTimer (s : State) (l : LinkId) : (s.goodFrame l).windowTimer = s.windowTimer := by
  obtain ⟨h, p, o, d, e⟩ := s.goodFrame_shape l; rw [e]; cases l <;> rfl
@[simp] theorem State.goodFrame_tickTimer (s : State) (l : LinkId) : (s.goodFrame l).tickTimer = s.tickTimer := by
  obtain ⟨h, p, o, d, e⟩ := s.goodFrame_shape l; rw [e]; cases l <;> rfl
@[simp] theorem State.goodFrame_requests (s : State) (l : LinkId) : (s.goodFrame l).requests = s.requests := by
  obtain ⟨h, p, o, d, e⟩ := s.goodFrame_shape l; rw [e]; cases l <;> rfl
@[simp] theorem State.goodFrame_mark (s : State) (l : LinkId) : (s.goodFrame l).mark = s.mark := by
  obtain ⟨h, p, o, d, e⟩ := s.goodFrame_shape l; rw [e]; cases l <;> rfl
@[simp] theorem State.goodFrame_queue (s : State) (l : LinkId) : (s.goodFrame l).queue = s.queue := by
  obtain ⟨h, p, o, d, e⟩ := s.goodFrame_shape l; rw [e]; cases l <;> rfl
@[simp] theorem State.goodFrame_slot (s : State) (l : LinkId) : (s.goodFrame l).slot = s.slot := by
  obtain ⟨h, p, o, d, e⟩ := s.goodFrame_shape l; rw [e]; cases l <;> rfl
@[simp] theorem State.goodFrame_pacer (s : State) (l : LinkId) : (s.goodFrame l).pacer = s.pacer := by
  obtain ⟨h, p, o, d, e⟩ := s.goodFrame_shape l; rw [e]; cases l <;> rfl
@[simp] theorem State.goodFrame_pacerTimer (s : State) (l : LinkId) : (s.goodFrame l).pacerTimer = s.pacerTimer := by
  obtain ⟨h, p, o, d, e⟩ := s.goodFrame_shape l; rw [e]; cases l <;> rfl
@[simp] theorem State.goodFrame_admitted (s : State) (l : LinkId) : (s.goodFrame l).admitted = s.admitted := by
  obtain ⟨h, p, o, d, e⟩ := s.goodFrame_shape l; rw [e]; cases l <;> rfl
@[simp] theorem State.goodFrame_profile (s : State) (l : LinkId) : (s.goodFrame l).profile = s.profile := by
  obtain ⟨h, p, o, d, e⟩ := s.goodFrame_shape l; rw [e]; cases l <;> rfl
@[simp] theorem State.goodFrame_staged (s : State) (l : LinkId) : (s.goodFrame l).staged = s.staged := by
  obtain ⟨h, p, o, d, e⟩ := s.goodFrame_shape l; rw [e]; cases l <;> rfl
@[simp] theorem State.goodFrame_filterTimer (s : State) (l : LinkId) : (s.goodFrame l).filterTimer = s.filterTimer := by
  obtain ⟨h, p, o, d, e⟩ := s.goodFrame_shape l; rw [e]; cases l <;> rfl
@[simp] theorem State.goodFrame_blankTimer (s : State) (l : LinkId) : (s.goodFrame l).blankTimer = s.blankTimer := by
  obtain ⟨h, p, o, d, e⟩ := s.goodFrame_shape l; rw [e]; cases l <;> rfl
@[simp] theorem State.goodFrame_filtered (s : State) (l : LinkId) : (s.goodFrame l).filtered = s.filtered := by
  obtain ⟨h, p, o, d, e⟩ := s.goodFrame_shape l; rw [e]; cases l <;> rfl
@[simp] theorem State.goodFrame_trip (s : State) (l : LinkId) : (s.goodFrame l).trip = s.trip := by
  obtain ⟨h, p, o, d, e⟩ := s.goodFrame_shape l; rw [e]; cases l <;> rfl
@[simp] theorem State.goodFrame_strainLine (s : State) (l : LinkId) : (s.goodFrame l).strainLine = s.strainLine := by
  obtain ⟨h, p, o, d, e⟩ := s.goodFrame_shape l; rw [e]; cases l <;> rfl
@[simp] theorem State.goodFrame_tripLine (s : State) (l : LinkId) : (s.goodFrame l).tripLine = s.tripLine := by
  obtain ⟨h, p, o, d, e⟩ := s.goodFrame_shape l; rw [e]; cases l <;> rfl
@[simp] theorem State.goodFrame_selection (s : State) (l : LinkId) : (s.goodFrame l).selection = s.selection := by
  obtain ⟨h, p, o, d, e⟩ := s.goodFrame_shape l; rw [e]; cases l <;> rfl
@[simp] theorem State.goodFrame_blocked (s : State) (l : LinkId) : (s.goodFrame l).blocked = s.blocked := by
  obtain ⟨h, p, o, d, e⟩ := s.goodFrame_shape l; rw [e]; cases l <;> rfl
@[simp] theorem State.goodFrame_stored (s : State) (l : LinkId) : (s.goodFrame l).stored = s.stored := by
  obtain ⟨h, p, o, d, e⟩ := s.goodFrame_shape l; rw [e]; cases l <;> rfl
@[simp] theorem State.goodFrame_table (s : State) (l : LinkId) : (s.goodFrame l).table = s.table := by
  obtain ⟨h, p, o, d, e⟩ := s.goodFrame_shape l; rw [e]; cases l <;> rfl
@[simp] theorem State.goodFrame_fallback (s : State) (l : LinkId) : (s.goodFrame l).fallback = s.fallback := by
  obtain ⟨h, p, o, d, e⟩ := s.goodFrame_shape l; rw [e]; cases l <;> rfl
@[simp] theorem State.goodFrame_pendingImage (s : State) (l : LinkId) : (s.goodFrame l).pendingImage = s.pendingImage := by
  obtain ⟨h, p, o, d, e⟩ := s.goodFrame_shape l; rw [e]; cases l <;> rfl
@[simp] theorem State.goodFrame_written (s : State) (l : LinkId) : (s.goodFrame l).written = s.written := by
  obtain ⟨h, p, o, d, e⟩ := s.goodFrame_shape l; rw [e]; cases l <;> rfl
@[simp] theorem State.goodFrame_now (s : State) (l : LinkId) : (s.goodFrame l).now = s.now := by
  obtain ⟨h, p, o, d, e⟩ := s.goodFrame_shape l; rw [e]; cases l <;> rfl
@[simp] theorem State.goodFrame_grants (s : State) (l : LinkId) : (s.goodFrame l).grants = s.grants := by
  obtain ⟨h, p, o, d, e⟩ := s.goodFrame_shape l; rw [e]; cases l <;> rfl
@[simp] theorem State.goodFrame_pending (s : State) (l : LinkId) : (s.goodFrame l).pending = s.pending := by
  obtain ⟨h, p, o, d, e⟩ := s.goodFrame_shape l; rw [e]; cases l <;> rfl

@[simp] theorem State.goodFrame_car (s : State) (l : LinkId) (n : CarName) : (s.goodFrame l).car n = s.car n :=
  State.car_congr (by simp) n

@[simp] theorem State.goodFrame_runOf (s : State) (l : LinkId) (n : CarName) : (s.goodFrame l).runOf n = s.runOf n :=
  State.runOf_congr (by simp) n

@[simp] theorem State.goodFrame_waiting (s : State) (l : LinkId) : (s.goodFrame l).waiting = s.waiting :=
  State.waiting_congr (by simp) (by simp)

/-- The link of a good frame is UP (R159). -/
@[simp] theorem State.goodFrame_up (s : State) (l : LinkId) : (s.goodFrame l).linkUp l = true := by
  obtain ⟨h, p, o, d, e⟩ := s.goodFrame_shape l
  rw [e]
  cases l <;> simp [State.setLink, State.linkUp]

/-- The other links keep their records. -/
theorem State.goodFrame_link_ne (s : State) {l k : LinkId} (ne : k ≠ l) : (s.goodFrame l).link k = s.link k := by
  obtain ⟨h, p, o, d, e⟩ := s.goodFrame_shape l
  rw [e]
  cases l <;> cases k <;> simp [State.setLink, State.link] at ne ⊢
  next g g' =>
    have : g.val ≠ g'.val := fun q => ne (Fin.ext q.symm)
    simp [this]

/-- The silence timer of the link of a good frame runs its full time (R159). -/
theorem State.goodFrame_link (s : State) (l : LinkId) :
    (s.goodFrame l).link l = { up := true, silence := some (s.now + silenceTime l) } := by
  obtain ⟨h, p, o, d, e⟩ := s.goodFrame_shape l
  rw [e]
  cases l <;> simp [State.setLink, State.link]

theorem State.fresh_begin {s : State} (h : s.Fresh) : s.begin.Fresh := State.fresh_of_silent (s := s) rfl h

theorem State.fresh_reach {s : State} (h : s.Fresh) (t : Nat) : (s.reach t).Fresh := by
  have e : (s.reach t).refresh = s.refresh.reach t := rfl
  unfold State.Fresh at h ⊢
  rw [e, h]

theorem State.fresh_goodFrame {s : State} (h : s.Fresh) (l : LinkId) : (s.goodFrame l).Fresh := by
  obtain ⟨a, b, o, d, e⟩ := s.goodFrame_shape l
  have f : (s.goodFrame l).refresh = { (s.refresh).setLink l { up := true, silence := some (s.now + silenceTime l) } with
      handshake := a, preTimer := b, outbox := o, selectionDue := d } := by rw [e]; cases l <;> rfl
  unfold State.Fresh at h ⊢
  rw [f, h, ← e]

end Sys2Proof.Machine
end

