-- ==== Sys2Proof/Laws/Reports.lean ====
section
/-! SUPPORT. The frame of the Run Supervisor's and the Car Table's operations (chapters 2 and 9): most keep the whole frame; those that
write a report keep all but the reported data of one car. -/

namespace Sys2Proof.Machine

/-- t differs from s in no control state, in the reported data of car n alone, nothing sent is taken back, nothing grows. -/
structure State.KeepsBut (n : CarName) (s t : State) : Prop where
  control : t.control = s.control
  body : ∀ m, m ≠ n → t.body m = s.body m
  sent : s.outbox <+: t.outbox
  wanes : s.Wanes t

theorem State.Keeps.but {s t : State} (k : s.Keeps t) (n : CarName) : State.KeepsBut n s t :=
  ⟨k.control, fun m _ => k.body m, k.sent, k.wanes⟩

theorem State.KeepsBut.then {n : CarName} {s t u : State} (h : State.KeepsBut n s t) (k : t.Keeps u) : State.KeepsBut n s u :=
  ⟨k.control.trans h.control, fun m q => (k.body m).trans (h.body m q), h.sent.trans k.sent, h.wanes.trans k.wanes⟩

theorem State.KeepsBut.upon {n : CarName} {s t u : State} (k : State.KeepsBut n t u) (h : s.Keeps t) : State.KeepsBut n s u :=
  ⟨k.control.trans h.control, fun m q => (k.body m q).trans (h.body m), h.sent.trans k.sent, h.wanes.trans k.wanes⟩

theorem State.modCar_keepsBut (s : State) (n : CarName) (f : Car → Car) (r : ∀ c, (f c).run = c.run) :
    State.KeepsBut n s (s.modCar n f) := by
  have h : ∀ c, s.car n = some c → State.KeepsBut n s (s.putCar n (f c)) := fun c hc => by
    refine ⟨rfl, fun m q => ?_, List.prefix_refl _, fun _ hw => hw, fun _ => Nat.le_refl _, Nat.le_refl _, fun m x hx => ?_⟩
    · unfold State.body
      rw [State.car_putCar_ne s (fun e => q e.symm)]
    · unfold State.runOf at hx ⊢
      rw [State.car_putCar] at hx
      split at hx
      · next e => subst e; rw [hc]; exact ⟨x, (r c).symm.trans hx, rfl⟩
      · exact ⟨x, hx, rfl⟩
  unfold State.modCar
  split
  · next c hc => exact h c hc
  · exact (State.Keeps.refl s).but n

theorem State.writePlace_keeps (s : State) (n : CarName) (l : Option Landing) : State.KeepsBut n s (s.writePlace n l) :=
  s.modCar_keepsBut n _ fun c => by cases l <;> rfl

/-! ### Follow-ups -/

theorem State.parkOrReclaim_keeps (s : State) (n : CarName) (f : FollowUps) : s.Keeps (s.parkOrReclaim n f) := by
  have p : s.Keeps (((if (s.waitingOf n).isSome then s.cancelGranted n else s).modCar n fun x => { x with member := none }).park n) :=
    (State.park_keeps _ n).after ((State.modCar_keeps _ n (fun x => { x with member := none }) (fun _ => rfl) fun _ => rfl).after
      (.ite (s.cancelGranted_keeps n) (.refl s)))
  unfold State.parkOrReclaim
  split
  · exact .ite (.ite (.ite (s.completeRun_keeps n _) (.refl s)) (.ite (.ite p (.refl s)) (.ite (s.reclaim_keeps n) (.refl s)))) (.refl s)
  · exact .refl s

theorem State.rerequest_keeps (s : State) (n : CarName) (d : Option Landing) (o : Option Nat) : s.Keeps (s.rerequest n d o) := by
  unfold State.rerequest
  split
  · refine .ite (.refl s) ?_
    split
    · exact .ite (s.addEntry_keeps n _ _ _) (s.refuse_keeps n _)
    · exact s.refuse_keeps n _
  · exact .refl s

theorem State.applyFollowUps_keeps (s : State) (n : CarName) (x : PendingAction) (o : Option Nat) :
    s.Keeps (s.applyFollowUps n x o) := by
  have k := (State.parkOrReclaim_keeps _ n x.flags).after
    (s.modCar_keeps n (fun c => { c with pending := none }) (fun _ => rfl) fun _ => rfl)
  exact .ite (k.trans (State.rerequest_keeps _ n _ _)) k

theorem State.endFollowUps_keeps (s : State) (n : CarName) (o : Nat) : s.Keeps (s.endFollowUps n o) := by
  unfold State.endFollowUps
  split
  · exact .ite (.refl s) (s.applyFollowUps_keeps n _ _)
  · exact .refl s

/-! ### Ends of runs -/

theorem State.takeOut_keeps (s : State) (n : CarName) : s.Keeps (s.takeOut n) := .ite (s.removeEntry_keeps n) (s.cancelWaiting_keeps n)

theorem State.restWaiting_keeps (s : State) (n : CarName) (c : Car) : s.Keeps (s.restWaiting n c) := by
  unfold State.restWaiting
  split
  · exact .refl s
  · have k := fun m => (State.setMotion_keeps _ n m).after (s.takeOut_keeps n)
    exact .ite (.ite (.refl s) (.ite ((k _).trans (State.locate_keeps _ n)) ((k _).trans (State.refuse_keeps _ n _))))
      (.ite (.ite ((k _).trans (State.arrivalEffect_keeps _ n)) ((k _).trans (State.refuse_keeps _ n _))) (.refl s))

theorem State.restReport_keeps (s : State) (n : CarName) : s.Keeps (s.restReport n) := by
  unfold State.restReport
  split
  · split
    · exact s.comeToRest_keeps n
    · exact s.comeToRest_keeps n
    · exact s.restWaiting_keeps n _
    · exact s.restWaiting_keeps n _
    all_goals exact .refl s
  · exact .refl s

/-- ARRIVED writes the position, and keeps the frame from then on. -/
theorem State.endArrived_keeps (s : State) (n : CarName) (r : Run) (l : Landing) :
    (((s.dropRun n).endUnpermitted n).writePlace n (some l)).Keeps (s.endArrived n r l) := by
  have k := State.setMotion_keeps (((s.dropRun n).endUnpermitted n).writePlace n (some l)) n .still
  exact (State.endFollowUps_keeps _ n _).after (.ite (k.trans (State.arrivalEffect_keeps _ n)) k)

/-- HALTED writes the position, and keeps the frame from then on. -/
theorem State.endHalted_keeps (s : State) (n : CarName) (r : Run) (l : Option Landing) (c : HaltCause) :
    (((s.dropRun n).endUnpermitted n).writePlace n l).Keeps (s.endHalted n r l c) := by
  have a := State.comeToRest_keeps (((s.dropRun n).endUnpermitted n).writePlace n l) n
  have b := State.Keeps.ite (p := r.haltCounts = true) (a.trans (State.countAttempt_keeps _ n)) a
  exact (State.endFollowUps_keeps _ n _).after
    (.ite (b.trans (State.recallFailed_keeps _ n _)) (b.trans (State.atRestPlan_keeps _ n _)))

theorem State.lateReport_keeps (s : State) (n : CarName) (l : Option Landing) : State.KeepsBut n s (s.lateReport n l) := by
  have a := (s.writePlace_keeps n l).then (State.endUnpermitted_keeps _ n)
  have b := a.then (State.restReport_keeps _ n)
  unfold State.lateReport
  dsimp only
  split
  · exact a
  · split
    · exact b
    · exact b.then (State.atRestPlan_keeps _ n _)

theorem State.startRunsOut_keeps (s : State) (n : CarName) (r : Run) : s.Keeps (s.startRunsOut n r) := by
  have f : s.Keeps (s.refund n r.permit) := ⟨rfl, fun _ => rfl, List.prefix_refl _, .of_cars rfl (fun _ h => h)
    (fun g => s.refund_le n r.permit g) (Nat.sub_le _ _)⟩
  have k := (State.comeToRest_keeps _ n).after ((State.modCar_sheds _ n (fun c => { c with run := none, credit := none, pending := none })
    (fun _ => rfl) fun _ => .none rfl).after f)
  exact .ite ((State.recallFailed_keeps _ n _).after ((State.countAttempt_keeps _ n).after k)) (k.trans (State.refuse_keeps _ n _))

theorem State.runRunsOut_keeps {s : State} {n : CarName} {r : Run} (h : s.runOf n = some r) : s.Keeps (s.runRunsOut n r) := by
  have e : (s.stopNow n).runOf n = some r := by
    obtain ⟨o, e⟩ := s.emit_shape (.link (.group (groupOf n))) (.order (numberOf n) .stopNow 0)
    unfold State.stopNow State.toGroup
    rw [e]; exact h
  have k : s.Keeps ((s.stopNow n).modCar n fun c =>
      { c with run := some { r with state := .grace .runTimeout (s.inSeconds 10) } }) := by
    refine State.Keeps.trans (s.stopNow_keeps n) ?_
    unfold State.modCar
    split
    · next c hc =>
      refine State.putCar_keeps hc rfl fun x hx => ?_
      have : c.run = some r := by unfold State.runOf at e; rw [hc] at e; exact e
      cases hx
      exact ⟨r, this, rfl⟩
    · exact .refl _
  have a := k.trans (State.countAttempt_keeps _ n)
  unfold State.runRunsOut
  dsimp only
  split
  · split
    · exact a.trans (State.giveUp_keeps _ n _)
    · exact a
  · exact k

theorem State.graceRunsOut_keeps (s : State) (n : CarName) (r : Run) (c : GraceCause) : s.Keeps (s.graceRunsOut n r c) := by
  have k := s.dropRun_keeps n
  exact (State.goOut_keeps _ n _).after (.ite (k.trans (State.toPanel_keeps _ _)) k)

theorem State.moveUnpermitted_keeps (s : State) (n : CarName) : s.Keeps (s.moveUnpermitted n) := by
  have k := s.dispose_keeps n
  exact (State.unpermittedMotion_keeps _ n).after (.ite k (k.trans (State.setMotion_keeps _ n _)))

/-! ### A report -/

theorem State.putOut_keeps (s : State) (n : CarName) (w : OutReason) : s.Keeps (s.putOut n w) :=
  (State.goOut_keeps _ n w).after ((State.abandonRun_keeps _ n).after (s.dispose_keeps n))

theorem State.watchMotion_keeps (s : State) (n : CarName) (c : Car) : s.Keeps (s.watchMotion n c) :=
  .ite (s.moveUnpermitted_keeps n) (.refl s)

theorem State.moveByReport_keeps (s : State) (n : CarName) : s.Keeps (s.moveByReport n) := by
  unfold State.moveByReport
  split
  · exact .ite ((State.watchMotion_keeps _ n _).after (s.putOut_keeps n _))
      (.ite (.refl s) (.ite (s.watchMotion_keeps n _) (s.restReport_keeps n)))
  · exact .refl s

theorem State.deriveMotion_keeps (s : State) (n : CarName) : s.Keeps (s.deriveMotion n) := by
  unfold State.deriveMotion
  split
  · split
    · exact .ite ((State.watchMotion_keeps _ n _).after (.ite (.refl s) (s.putOut_keeps n _)))
        (.ite ((State.moveByReport_keeps _ n).after (s.comeToRest_keeps n)) (s.watchMotion_keeps n _))
    · exact .ite ((State.watchMotion_keeps _ n _).after (s.putOut_keeps n _)) (s.moveByReport_keeps n)
  · exact .refl s

theorem State.endIfAtRest_keeps (s : State) (n : CarName) : s.Keeps (s.endIfAtRest n) := .ite (.refl s) (s.endUnpermitted_keeps n)

theorem State.abandonFollowUps_keeps (s : State) (n : CarName) : s.Keeps (s.abandonFollowUps n) := by
  unfold State.abandonFollowUps
  split
  · split
    · exact .ite (s.applyFollowUps_keeps n _ _) (.refl s)
    · exact .refl s
  · exact .refl s

theorem State.syncEntry_keeps (s : State) (n : CarName) : s.Keeps (s.syncEntry n) := by
  unfold State.syncEntry
  split
  · exact .of_eq rfl rfl rfl rfl rfl rfl rfl
  · exact .refl s

theorem State.planArrival_keeps (s : State) (n : CarName) : s.Keeps (s.planArrival n) :=
  .ite (s.plan_keeps n) (.ite (s.modCar_keeps n _ (fun _ => rfl) fun _ => rfl) (.refl s))

theorem State.poweringParked_keeps (s : State) (n : CarName) : s.Keeps (s.poweringParked n) :=
  .ite ((State.modCar_keeps _ n (fun c => { c with member := none }) (fun _ => rfl) fun _ => rfl).after
    (.ite (s.setStep_keeps n _) (s.park_keeps n))) (.refl s)

theorem State.creditByReport_keeps (s : State) (n : CarName) : s.Keeps (s.creditByReport n) :=
  .ite (s.modCar_keeps n _ (fun _ => rfl) fun _ => rfl) (.refl s)

theorem State.accept_keeps (s : State) (n : CarName) (r : Report) (a b : Bool) :
    State.KeepsBut n s (s.modCar n fun c => c.accept r a b) := s.modCar_keepsBut n _ fun _ => rfl

/-- A report writes its fields, and keeps the frame from then on. -/
theorem State.takeReport_keeps (s : State) (n : CarName) (old : Car) (new : Bool) (r : Report) :
    (s.modCar n fun c => c.accept r (s.phase = .normal) s.collecting).Keeps (s.takeReport n old new r) := by
  have a := (State.endIfAtRest_keeps _ n).after
    (State.deriveMotion_keeps (s.modCar n fun c => c.accept r (s.phase = .normal) s.collecting) n)
  have b := (State.syncEntry_keeps _ n).after ((State.abandonFollowUps_keeps _ n).after a)
  unfold State.takeReport
  dsimp only
  have c := fun (p q : Prop) [Decidable p] [Decidable q] (m : Bool) =>
    (State.creditByReport_keeps _ n).after ((State.poweringParked_keeps _ n).after
      (State.Keeps.ite (p := p) (b.trans (State.planArrival_keeps _ n))
        (State.Keeps.ite (p := q) b (b.trans (State.atRestPlan_keeps _ n m)))))
  exact .ite ((c _ _ _).trans (State.endFireRelease_keeps _ n)) (c _ _ _)

/-! ### Runs that start, and what a link's loss does to a car -/

theorem State.runStarted_keeps {s : State} {n : CarName} {r : Run} (h : s.runOf n = some r) : s.Keeps (s.runStarted n r) := by
  unfold State.runStarted State.modCar
  split
  · next c hc =>
    refine State.putCar_keeps hc rfl fun x hx => ?_
    have : c.run = some r := by unfold State.runOf at h; rw [hc] at h; exact h
    cases hx
    exact ⟨r, this, rfl⟩
  · exact .refl _

theorem State.dropLostEntry_keeps (s : State) (n : CarName) : s.Keeps (s.dropLostEntry n) := by
  unfold State.dropLostEntry
  split
  · exact .ite (.refl s) ((State.comeToRest_keeps _ n).after (s.removeEntry_keeps n))
  · exact .refl s

theorem State.dropLostWaiting_keeps (s : State) (w : Waiting) : s.Keeps (s.dropLostWaiting w) := by
  have k := (State.comeToRest_keeps _ w.car).after (s.cancelWaiting_keeps w.car)
  exact .ite (k.trans (State.recallEntry_keeps _ _ _)) k

theorem State.graceLost_keeps (s : State) (n : CarName) : s.Keeps (s.graceLost n) := by
  refine s.modCar_sheds n _ (fun c => ?_) fun c x hx => ?_
  · cases c.run with
    | none => rfl
    | some r => dsimp only; split <;> rfl
  · obtain ⟨r, hr⟩ | hr : (∃ r, c.run = some r) ∨ c.run = none := by cases c.run <;> simp
    · simp only [hr] at hx
      split at hx
      · cases hx; exact ⟨r, hr, rfl⟩
      · exact ⟨x, hx, rfl⟩
    · simp only [hr] at hx
      cases hx

theorem State.cancelAndRenew_keeps (s : State) (w : Waiting) : s.Keeps (s.cancelAndRenew w) := by
  have k := (State.comeToRest_keeps _ w.car).after (s.cancelWaiting_keeps w.car)
  exact .ite (k.trans (State.recallEntry_keeps _ _ _)) (k.trans (State.refuse_keeps _ _ _))

end Sys2Proof.Machine
end

