-- ==== Sys2Proof/Laws/Stays.lean ====
section
/-! SUPPORT. The wider frame of the operations that move the phase, the pacer, the strain state or the links: State.Stays s t says that the
settings and the reported data stay, that nothing sent is taken back, and that nothing grows. -/

namespace Sys2Proof.Machine

/-- The settings: what only the panel, the maintenance port, a report under the fallback table and the clock change. -/
structure Settings where
  selection : Vector Selection 6
  blocked : Vector (List Landing) 6
  stored : Option StoredTable
  table : Image
  fallback : Option TableFailure
  pendingImage : Image
  written : Option Nat
  now : Nat
  grants : Nat
  pending : List Instr

/-- The settings of a state. -/
def State.settings (s : State) : Settings :=
  { selection := s.selection, blocked := s.blocked, stored := s.stored, table := s.table, fallback := s.fallback,
    pendingImage := s.pendingImage, written := s.written, now := s.now, grants := s.grants, pending := s.pending }

/-- The settings as a function of the control state. -/
def Control.settings (c : Control) : Settings :=
  { selection := c.selection, blocked := c.blocked, stored := c.stored, table := c.table, fallback := c.fallback,
    pendingImage := c.pendingImage, written := c.written, now := c.now, grants := c.grants, pending := c.pending }

/-- t keeps the settings and the reported data of s and everything s has sent, and nothing grows. -/
structure State.Stays (s t : State) : Prop where
  settings : t.settings = s.settings
  body : ∀ n, t.body n = s.body n
  sent : s.outbox <+: t.outbox
  wanes : s.Wanes t

theorem State.Stays.refl (s : State) : s.Stays s := ⟨rfl, fun _ => rfl, List.prefix_refl _, .refl s⟩

theorem State.Stays.trans {s t u : State} (h : s.Stays t) (k : t.Stays u) : s.Stays u :=
  ⟨k.settings.trans h.settings, fun n => (k.body n).trans (h.body n), h.sent.trans k.sent, h.wanes.trans k.wanes⟩

/-- The same with the later part first. -/
theorem State.Stays.after {s t u : State} (k : t.Stays u) (h : s.Stays t) : s.Stays u := h.trans k

theorem State.Keeps.stays {s t : State} (k : s.Keeps t) : s.Stays t :=
  ⟨congrArg Control.settings k.control, k.body, k.sent, k.wanes⟩

theorem State.Stays.ite {s t u : State} {p : Prop} [Decidable p] (h : s.Stays t) (k : s.Stays u) : s.Stays (if p then t else u) := by
  split
  · exact h
  · exact k

theorem State.Stays.foldl {α : Type} {f : State → α → State} (h : ∀ (a : State) x, a.Stays (f a x)) :
    ∀ (l : List α) (s : State), s.Stays (l.foldl f s)
  | [], s => .refl s
  | x :: l, s => (h s x).trans (State.Stays.foldl h l (f s x))

theorem State.Stays.forCars {f : CarName → State → State} (h : ∀ n (a : State), a.Stays (f n a)) (s : State) : s.Stays (s.forCars f) :=
  State.Stays.foldl (fun a n => h n a) carNames s

/-- Only fields outside the settings, the cars, the permits and the accounts differ. -/
theorem State.Stays.of_eq {s t : State} (c : t.settings = s.settings) (h : t.cars = s.cars) (o : t.outbox = s.outbox)
    (q : t.queue = s.queue) (d : t.slot = s.slot) (a : t.accounts = s.accounts) (v : t.serviceAccount = s.serviceAccount) :
    s.Stays t := ⟨c, State.body_congr h, o ▸ List.prefix_refl _, .of_eq h q d a v⟩

/-- What the end of an event leaves alone. -/
theorem State.Ends.wanes {s t : State} (k : s.Ends t) : s.Wanes t := by
  refine ⟨k.waits, k.accounts, k.service, fun n r hr => ⟨r, ?_, rfl⟩⟩
  have h := k.held n
  unfold State.runOf at hr ⊢
  cases ht : t.car n with
  | none => rw [ht] at hr; cases hr
  | some d =>
    cases hs : s.car n with
    | none => rw [ht, hs] at h; cases h
    | some c =>
      rw [ht, hs] at h
      have e : d.run = c.run := congrArg Held.run (Option.some.inj h)
      rw [ht] at hr
      exact e.symm.trans hr

theorem State.Ends.stays {s t : State} (k : s.Ends t) : s.Stays t :=
  ⟨congrArg Control.settings k.lasting, k.body, k.sent, k.wanes⟩

/-! ### The pacer -/

theorem State.activateStaged_stays (s : State) : s.Stays s.activateStaged := by
  unfold State.activateStaged
  split
  · exact .of_eq rfl rfl rfl rfl rfl rfl rfl
  · exact .refl s

theorem State.haltPacer_stays (s : State) : s.Stays s.haltPacer :=
  (State.activateStaged_stays _).after (.of_eq rfl rfl rfl rfl rfl rfl rfl)

theorem State.enterOpenA_stays (s : State) : s.Stays s.enterOpenA := .of_eq rfl rfl rfl rfl rfl rfl rfl

theorem State.enterOpenB_stays (s : State) : s.Stays s.enterOpenB := .of_eq rfl rfl rfl rfl rfl rfl rfl

theorem State.enterSettleA_stays (s : State) : s.Stays s.enterSettleA := by
  have k : s.Stays { s with pacer := .settleA, admitted := false, pacerTimer := some (s.inTenths s.profile.settleA) } :=
    .of_eq rfl rfl rfl rfl rfl rfl rfl
  exact .ite (k.trans (State.enterOpenA_stays _)) k

theorem State.enterSettleB_stays (s : State) : s.Stays s.enterSettleB := by
  have k : s.Stays { s with pacer := .settleB, pacerTimer := some (s.inTenths s.profile.settleB) } :=
    .of_eq rfl rfl rfl rfl rfl rfl rfl
  exact .ite (k.trans (State.enterOpenB_stays _)) k

theorem State.endCycle_stays (s : State) : s.Stays s.endCycle := (State.enterSettleA_stays _).after s.activateStaged_stays

theorem State.leaveOpen_stays (s : State) : s.Stays s.leaveOpen := by
  unfold State.leaveOpen
  split
  · exact .ite s.enterSettleB_stays s.endCycle_stays
  · exact s.endCycle_stays
  · exact .refl s

theorem State.moveTo_stays (s : State) (p : PacerState) : s.Stays (s.moveTo p) :=
  (State.activateStaged_stays _).after (.of_eq rfl rfl rfl rfl rfl rfl rfl)

theorem State.holdOrder_stays (s : State) : s.Stays s.holdOrder := .ite (s.moveTo_stays _) (.refl s)

theorem State.waitOrder_stays (s : State) : s.Stays s.waitOrder := .ite (s.moveTo_stays _) (.refl s)

theorem State.resume_stays (s : State) : s.Stays s.resume := .ite (.ite s.haltPacer_stays s.enterSettleA_stays) (.refl s)

theorem State.toPanel_stays (s : State) (m : OutMsg) : s.Stays (s.toPanel m) := (s.toPanel_keeps m).stays

theorem State.alertWaitRestart_stays (s : State) (b : Byte) : s.Stays (s.alertWaitRestart b) := s.toPanel_stays _

theorem State.leaveHalted_stays (s : State) : s.Stays s.leaveHalted := by
  have k := (State.alertWaitRestart_stays _ 0#8).after (s.moveTo_stays .waitRestart)
  unfold State.leaveHalted
  dsimp only
  split
  · exact .ite k (s.moveTo_stays _)
  · split
    · split
      · exact k
      · exact s.moveTo_stays _
      · exact s.moveTo_stays _
      · exact s.enterSettleA_stays
    · exact s.enterSettleA_stays

theorem State.resumeIfClear_stays (s : State) : s.Stays s.resumeIfClear := .ite s.resume_stays (.refl s)

/-! ### Strain and trip -/

theorem State.curtailService_stays (s : State) : s.Stays s.curtailService :=
  have k : s.Keeps (s.runningService.foldl (fun acc x => acc.curtailRun x.1 .clear) s) :=
    State.Keeps.foldl (fun (a : State) (x : CarName × Permit) => a.curtailRun_keeps x.1 _) _ s
  k.stays

theorem State.strainActs_stays (s : State) : s.Stays s.strainActs := by
  have k := s.toPanel_stays (.alert (.distress s.table.site.strainMode s.pacer))
  unfold State.strainActs
  dsimp only
  split
  · exact k
  · exact k.trans (State.holdOrder_stays _)
  · exact (State.curtailService_stays _).after (k.trans (State.holdOrder_stays _))
  · exact (State.alertWaitRestart_stays _ _).after (k.trans (State.waitOrder_stays _))

theorem State.assertFiltered_stays (s : State) : s.Stays s.assertFiltered := by
  have k : s.Stays { s with filtered := true, filterTimer := none } := .of_eq rfl rfl rfl rfl rfl rfl rfl
  exact .ite (k.trans (State.strainActs_stays _)) k

theorem State.startFilter_stays (s : State) : s.Stays s.startFilter :=
  .ite (.refl s) (.ite s.assertFiltered_stays (.of_eq rfl rfl rfl rfl rfl rfl rfl))

theorem State.strainAtEntry_stays (s : State) : s.Stays s.strainAtEntry := .ite s.strainActs_stays (.refl s)

theorem State.startBlanking_stays (s : State) : s.Stays s.startBlanking := .ite (.refl s) (.of_eq rfl rfl rfl rfl rfl rfl rfl)

theorem State.tripOrder_stays (s : State) (a b : Nat) : s.Stays (s.tripOrder a b) := by
  have k : s.Stays (if s.table.site.strainMode = .operator then s.waitOrder else s.holdOrder) := .ite s.waitOrder_stays s.holdOrder_stays
  have k := (State.toPanel_stays _ (.alert (.trip a b (if s.table.site.strainMode = .operator then s.waitOrder else s.holdOrder).pacer))).after k
  exact .ite (k.trans (State.alertWaitRestart_stays _ _)) k

/-! ### Phases -/

theorem State.clearRun_stays (s : State) (n : CarName) : s.Stays (s.clearRun n) := by
  unfold State.clearRun
  split
  · exact ((State.stopNow_keeps _ n).after
      (s.modCar_sheds n (fun c => { c with run := none, motion := .stranded }) (fun _ => rfl) fun _ => .none rfl)).stays
  · exact .refl s

theorem State.clearWaiting_stays (s : State) (w : Waiting) : s.Stays (s.clearWaiting w) :=
  ((State.comeToRest_keeps _ w.car).after (s.cancelWaiting_keeps w.car)).stays

theorem State.clearRuns_stays (s : State) : s.Stays s.clearRuns := by
  have a := State.Stays.forCars (fun n a => State.clearRun_stays a n) s
  have b := a.trans (State.Stays.foldl (fun a w => State.clearWaiting_stays a w) (s.forCars fun n acc => acc.clearRun n).waiting _)
  unfold State.clearRuns
  dsimp only
  generalize (s.forCars fun n acc => acc.clearRun n).waiting.foldl State.clearWaiting (s.forCars fun n acc => acc.clearRun n) = t at b
  have c : s.Stays { t with requests := Vector.replicate 6 [], mark := none } := b.trans (.of_eq rfl rfl rfl rfl rfl rfl rfl)
  exact c.trans (State.Stays.forCars (fun n a => (State.modCar_keeps a n (Car.cleared t.now) (fun _ => rfl) fun _ => rfl).stays) _)

theorem State.phaseNotice_stays (s : State) : s.Stays s.phaseNotice := s.phaseNotice_keeps.stays

theorem State.enterOutage_stays (s : State) : s.Stays s.enterOutage :=
  (State.haltPacer_stays _).after ((State.clearRuns_stays _).after ((State.phaseNotice_stays _).after
    (.of_eq rfl rfl rfl rfl rfl rfl rfl)))

theorem State.startTicks_stays (s : State) : s.Stays s.startTicks := by
  unfold State.startTicks
  split
  · exact .of_eq rfl rfl rfl rfl rfl rfl rfl
  · exact .refl s

theorem State.startSettling_stays (s : State) : s.Stays s.startSettling := .of_eq rfl rfl rfl rfl rfl rfl rfl

theorem State.openTakeover_stays (s : State) : s.Stays s.openTakeover :=
  (State.phaseNotice_stays _).after (.of_eq rfl rfl rfl rfl rfl rfl rfl)

theorem State.enterTakeover_stays (s : State) : s.Stays s.enterTakeover :=
  (State.strainAtEntry_stays _).after ((State.startTicks_stays _).after ((State.startSettling_stays _).after
    ((State.haltPacer_stays _).after ((State.clearRuns_stays _).after s.openTakeover_stays))))

theorem State.curtailAll_stays (s : State) : s.Stays s.curtailAll := by
  refine (State.Keeps.forCars (fun n a => ?_) s).stays
  split
  · exact .ite (a.curtailRun_keeps n _) (.refl a)
  · exact .refl a

theorem State.openHandshake_stays (s : State) (m : Remembered) (k : TransKind) : s.Stays (s.openHandshake m k) :=
  (State.startTicks_stays _).after ((State.haltPacer_stays _).after ((State.phaseNotice_stays _).after
    (.of_eq rfl rfl rfl rfl rfl rfl rfl)))

theorem State.standDown_stays (s : State) : s.Stays s.standDown :=
  (State.curtailAll_stays _).after (State.Keeps.foldl State.cancelAndRenew_keeps s.waiting s).stays

theorem State.enterPreTransfer_stays (s : State) (m : Remembered) (k : TransKind) : s.Stays (s.enterPreTransfer m k) := by
  have a := s.openHandshake_stays m k
  exact (State.strainAtEntry_stays _).after (.ite (a.trans (State.standDown_stays _)) a)

theorem State.tryClear_stays (s : State) : s.Stays s.tryClear := by
  unfold State.tryClear
  split
  · exact .ite ((State.toPower_keeps _ _).stays.after (.of_eq rfl rfl rfl rfl rfl rfl rfl)) (.refl s)
  · exact .refl s

theorem State.forceClear_stays (s : State) (h : Handshake) : s.Stays (s.forceClear h) :=
  (State.toPower_keeps _ _).stays.after (.of_eq rfl rfl rfl rfl rfl rfl rfl)

theorem State.enterService_stays (s : State) : s.Stays s.enterService :=
  (State.phaseNotice_stays _).after (.of_eq rfl rfl rfl rfl rfl rfl rfl)

theorem State.planReturning_stays (s : State) (n : CarName) : s.Stays (s.planReturning n) := by
  have k : s.Keeps (s.modCar n fun x => { x with planDue := false }) := s.modCar_keeps n _ (fun _ => rfl) fun _ => rfl
  unfold State.planReturning
  split
  · exact .ite (k.trans (State.replanInPlace_keeps _ n)).stays (.ite (k.trans (State.plan_keeps _ n)).stays k.stays)
  · exact .refl s

theorem State.returnToStandby_stays (s : State) (p : Phase) : s.Stays (s.returnToStandby p) := by
  have a : s.Stays { s with phase := p, handshake := none, preTimer := none } := .of_eq rfl rfl rfl rfl rfl rfl rfl
  exact (State.Stays.forCars (fun n b => State.planReturning_stays b n) _).after ((State.leaveHalted_stays _).after
    (.ite (a.trans (State.enterService_stays _)) (a.trans (State.phaseNotice_stays _))))

/-! ### Timers and links -/

theorem State.markSilent_keeps (s : State) (n : CarName) : s.Keeps (s.markSilent n) := by
  unfold State.markSilent
  split
  · exact .ite (.refl s) (s.goOut_keeps n _)
  · exact .refl s

theorem State.planCar_keeps (s : State) (n : CarName) : s.Keeps (s.planCar n) := by
  unfold State.planCar
  split
  · exact .ite (s.replanInPlace_keeps n) (.ite (s.giveOrder_keeps n _) (.ite (.ite (s.giveOrder_keeps n _) (.refl s)) (s.plan_keeps n)))
  · exact .refl s

theorem State.startRecall_stays (s : State) : s.Stays s.startRecall := by
  have a : s.Stays ({ s.askSelection with takeover := none, phase := .recall } : State).phaseNotice :=
    (State.phaseNotice_stays _).after (.of_eq rfl rfl rfl rfl rfl rfl rfl)
  exact .ite (a.trans (State.leaveHalted_stays _)) a

theorem State.examineChange_keeps (s0 s : State) : s.Keeps (s0.examineChange s) :=
  .ite ((State.refresh_keeps _).after s.examine_keeps) (.refl s)

theorem State.stepFour_stays (s : State) : s.Stays s.stepFour := by
  have a := (State.Keeps.forCars (fun n a => State.markSilent_keeps a n) s).stays
  unfold State.stepFour
  generalize (s.forCars fun n acc => acc.markSilent n) = t at a
  have b : s.Stays ({ t with blHeld := false } : State).refresh := a.trans (.of_eq rfl rfl rfl rfl rfl rfl rfl)
  exact b.trans (State.examineChange_keeps _ _).stays

theorem State.endCollection_stays (s : State) : s.Stays s.endCollection :=
  (State.startRecall_stays _).after
    (s.stepFour_stays.trans (State.Keeps.forCars (fun n a => State.planCar_keeps a n) _).stays)

theorem State.preTransferEnds_stays (s : State) : s.Stays s.preTransferEnds := by
  have a : s.Stays { s with preTimer := none } := .of_eq rfl rfl rfl rfl rfl rfl rfl
  unfold State.preTransferEnds
  dsimp only
  split
  · exact .ite a (.ite (a.trans (State.forceClear_stays _ _)) (a.trans (.of_eq rfl rfl rfl rfl rfl rfl rfl)))
  · exact a

theorem State.tick_stays (s : State) : s.Stays s.tick :=
  ⟨rfl, fun _ => rfl, List.prefix_refl _, .of_cars rfl (fun _ h => h) (fun g => by simp [State.tick]) (Nat.sub_le _ _)⟩

theorem State.turnWindow_stays (s : State) : s.Stays s.turnWindow := by
  unfold State.turnWindow
  split
  · exact (State.phaseNotice_stays _).after (.of_eq rfl rfl rfl rfl rfl rfl rfl)
  · exact (State.phaseNotice_stays _).after (.of_eq rfl rfl rfl rfl rfl rfl rfl)
  · exact .of_eq rfl rfl rfl rfl rfl rfl rfl

theorem State.dropMark_stays (s : State) (g : GroupNo) : s.Stays (s.dropMark g) := by
  unfold State.dropMark
  split
  · exact .ite (.of_eq rfl rfl rfl rfl rfl rfl rfl) (.refl s)
  · exact .refl s

theorem State.groupLost_stays (s : State) (g : GroupNo) : s.Stays (s.groupLost g) := by
  have a := (State.Keeps.foldl (fun a n => State.dropLostEntry_keeps a n) (groupCars g) s).stays
  unfold State.groupLost
  dsimp only
  generalize (groupCars g).foldl (fun acc n => State.dropLostEntry acc n) s = t at a ⊢
  have b := a.trans (State.dropMark_stays t g)
  generalize t.dropMark g = u at b ⊢
  have d := b.trans (State.Keeps.foldl State.dropLostWaiting_keeps (s.waitingOfGroup g) u).stays
  generalize (s.waitingOfGroup g).foldl State.dropLostWaiting u = v at d ⊢
  have e := d.trans (State.Keeps.foldl (fun a n => State.graceLost_keeps a n) (groupCars g) v).stays
  split
  · exact e.trans (State.toPanel_stays _ _)
  · exact e

theorem State.linkLost_stays (s : State) (l : LinkId) : s.Stays (s.linkLost l) := by
  cases l with
  | power => exact .ite (.of_eq rfl rfl rfl rfl rfl rfl rfl) (.refl s)
  | panel => exact .refl s
  | group g => exact s.groupLost_stays g

theorem State.setLink_stays (s : State) (l : LinkId) (x : Link) : s.Stays (s.setLink l x) := by
  cases l <;> exact .of_eq rfl rfl rfl rfl rfl rfl rfl

theorem State.silenceRunsOut_stays (s : State) (l : LinkId) : s.Stays (s.silenceRunsOut l) :=
  (State.linkLost_stays _ l).after (s.setLink_stays l _)

end Sys2Proof.Machine
end

