-- ==== Sys2Proof/Laws/Commands.lean ====
section
/-! SUPPORT. Every command but a device reset and GRANT is an onset, an effect and an end of event: State.onset and State.effect name the
first two, exec_shape says so, and the lemmas on State.effect say what each command's own effect leaves alone. GRANT is a run of selections,
each an effect and an end of event: exec_grant and State.selections_keeps say so. -/

namespace Sys2Proof.Machine

/-- The timer whose expiry a command is: none for another command. -/
def State.timerOf (s : State) : Instr → Option (Option Nat)
  | .silenceTimerExpiry l => some (s.link l).silence
  | .filterTimerExpiry => some s.filterTimer
  | .blankingTimerExpiry => some s.blankTimer
  | .standbySettleExpiry => some (s.stageEnds .settling)
  | .collectionTimerExpiry => some (s.stageEnds .collecting)
  | .preTransferTimerExpiry => some s.preTimer
  | .accountTick => some s.tickTimer
  | .windowTimerExpiry => some s.windowTimer
  | .settleAExpiry => some (s.pacerEnds .settleA)
  | .openAExpiry => some (s.pacerEnds .openA)
  | .settleBExpiry => some (s.pacerEnds .settleB)
  | .openBExpiry => some (s.pacerEnds .openB)
  | .startTimerExpiry n => some ((s.runOf n).bind fun r => r.state.startEnds)
  | .runTimerExpiry n => some ((s.runOf n).bind fun r => r.state.runEnds)
  | .graceTimerExpiry n => some ((s.runOf n).bind fun r => r.state.graceEnds)
  | .dwellTimerExpiry n => some ((s.car n).bind Car.dwell)
  | _ => none

/-- The link on which a command's message came. -/
def linkOf : Instr → Option LinkId
  | .status g _ | .request g _ _ | .withdraw g _ | .started g _ | .arrived g _ _ | .halted g _ _ _ => some (.group g)
  | .source _ _ | .capacity _ _ | .profile _ => some .power
  | .select _ _ | .block _ _ | .unblock _ _ | .restart _ | .retry _ => some .panel
  | .droppedFrame (.link l) bytes => if isGood bytes then some l else none
  | _ => none

/-- The state in which a command takes effect. -/
def State.onset (s : State) (i : Instr) : State :=
  match linkOf i, s.timerOf i with
  | some l, _ => s.begin.goodFrame l
  | none, some (some t) => s.begin.reach t
  | none, _ => s.begin

/-- The effect of a command on a car that a group message names. -/
def State.onCarOf (s : State) (g : GroupNo) (car : Byte) (f : CarName → State → State) : State :=
  match carNoOf car with
  | some c => if s.configured (carOf g c) then f (carOf g c) s else s
  | none => s

/-- The effect of a command, before the end of its event. -/
def State.effect (s : State) : Instr → State
  | .deviceReset => s
  | .status g r => match carNoOf r.car with | some c => s.takeStatus (carOf g c) (reportOf r) | none => s
  | .request g car dest => s.takeRequest g car dest
  | .withdraw g car => s.takeWithdraw g car
  | .started g car => s.onCarOf g car fun n s => s.takeStarted n
  | .arrived g car l => s.onCarOf g car fun n s => s.takeArrived n (landingOf l)
  | .halted g car l k => s.onCarOf g car fun n s => s.takeHalted n (landingOf l) (haltCauseOf k)
  | .source x k =>
    match sourceStateOf x, transKindOf k with
    | some x, some k => s.takeSource x k
    | _, _ => s
  | .capacity o a => { s with offered := capacityOf o, absorb := capacityOf a, clamp := false }
  | .profile p =>
    if s.pacer.cycling then { s with staged := some (profileBytesOf p) }
    else { s with staged := some (profileBytesOf p) }.activateStaged
  | .select g x => s.takeSelect g x
  | .block g l => s.takeBlock g l
  | .unblock g l => s.takeUnblock g l
  | .restart n => s.takeRestart n
  | .retry n => s.takeRetry n
  | .tableWrite n v => s.takeWrite n v
  | .tableCommit v => s.takeCommit v
  | .tableRead n f => s.takeRead n f
  | .droppedFrame _ _ => s
  | .silenceTimerExpiry l => s.silenceRunsOut l
  | .strainAsserted => s.strainRises
  | .strainReleased => s.strainFalls
  | .tripAsserted => s.tripRises
  | .tripReleased => { s with tripLine := false, trip := false }.resumeIfClear
  | .filterTimerExpiry => s.assertFiltered
  | .blankingTimerExpiry => s.blankingEnds
  | .standbySettleExpiry => s.stayStep
  | .collectionTimerExpiry => s.endCollection
  | .preTransferTimerExpiry => s.preTransferEnds
  | .clear => s.tryClear
  | .accountTick => s.tick
  | .windowTimerExpiry => s.turnWindow
  | .settleAExpiry => s.enterOpenA
  | .openAExpiry => s.enterSettleB
  | .settleBExpiry => s.enterOpenB
  | .openBExpiry => s.endCycle
  | .admission => s.attemptAdmission
  | .grant => s.select
  | .startTimerExpiry n => s.withRun n (s.startRunsOut n)
  | .runTimerExpiry n => s.withRun n (s.runRunsOut n)
  | .graceTimerExpiry n => s.withRun n (s.graceEnds n)
  | .dwellTimerExpiry n => s.dwellEnds n

/-- The state with which the end of a SOURCE's event compares. -/
def State.sourceBaseOf (s0 s1 : State) (x k : Byte) : State :=
  match sourceStateOf x, transKindOf k with
  | some _, some _ => s0.sourceBase s1
  | _, _ => s0

/-- The state with which the end of a command's event compares. -/
def State.baseOf (s : State) (i : Instr) : State :=
  match i with
  | .tableCommit _ => { s.onset i with cars := ((s.onset i).effect i).cars }
  | .source x k => (s.onset i).sourceBaseOf ((s.onset i).effect i) x k
  | .collectionTimerExpiry => (s.onset i).collectionBase
  | .profile p => { s.onset i with staged := some (profileBytesOf p) }
  | _ => s.onset i

theorem State.baseOf_source (s : State) (x k : Byte) :
    s.baseOf (.source x k) = (s.onset (.source x k)).sourceBaseOf ((s.onset (.source x k)).effect (.source x k)) x k := rfl

theorem State.baseOf_collection (s : State) : s.baseOf .collectionTimerExpiry = (s.onset .collectionTimerExpiry).collectionBase := rfl

theorem State.baseOf_dropped (s : State) (p : Port) (b : List Byte) : s.baseOf (.droppedFrame p b) = s.onset (.droppedFrame p b) := rfl

/-- Whether the commands that end with nothing done but an empty outbox are met: an expiry of a timer that does not run, a frame dropped
on the maintenance port. -/
def State.nothingFor (s : State) : Instr → Bool
  | .droppedFrame .maintenance _ => true
  | i => match s.timerOf i with | some none => true | _ => false

theorem onTimer_shape (e : Option Nat) (f : State → State) (s : State) :
    e = none ∧ onTimer e f s = .next s.begin ∨
    ∃ t, e = some t ∧ onTimer e f s = .next ((s.begin.reach t).endEvent (f (s.begin.reach t))) := by
  cases e with
  | none => exact .inl ⟨rfl, rfl⟩
  | some t => exact .inr ⟨t, rfl, rfl⟩

/-- GRANT is a run of selections. -/
theorem exec_grant (s : State) : exec .grant s = .next (s.begin.selections longestRun) := rfl

/-- A selection is an effect and an end of event. -/
theorem State.makeSelection_shape (s : State) : s.makeSelection = s.endEvent s.select (s.grants ≠ s.select.grants) := rfl

/-- What each selection keeps, and what does not depend on whether one is due, a run of selections keeps. -/
theorem State.selections_keeps {P : State → Prop} (one : ∀ s, P s → P s.makeSelection)
    (due : ∀ s d, P s → P { s with selectionDue := d }) : ∀ (n : Nat) (s : State), P s → P (s.selections n)
  | 0, _, h => h
  | n + 1, s, h => by
    unfold State.selections
    dsimp only
    split
    · exact due _ _ (one s h)
    · exact State.selections_keeps one due n _ (one s h)

/-- Every command but a device reset and GRANT either does nothing or is an onset, an effect and an end of event. -/
theorem exec_shape (i : Instr) (s : State) (h : i ≠ .deviceReset) (hg : i ≠ .grant) :
    s.nothingFor i = true ∧ exec i s = .next s.begin ∨
    s.nothingFor i = false ∧ ∃ load asked, exec i s = .next ((s.baseOf i).endEvent ((s.onset i).effect i) load asked) := by
  have timer : ∀ (e : Option Nat) (f : State → State), s.timerOf i = some e → linkOf i = none → s.baseOf i = s.onset i →
      (s.nothingFor i = match s.timerOf i with | some none => true | _ => false) → exec i s = onTimer e f s → (∀ a : State, a.effect i = f a) →
      s.nothingFor i = true ∧ exec i s = .next s.begin ∨
      s.nothingFor i = false ∧ ∃ load asked, exec i s = .next ((s.baseOf i).endEvent ((s.onset i).effect i) load asked) := by
    intro e f ht hl hb hn he hf
    rcases onTimer_shape e f s with ⟨rfl, q⟩ | ⟨t, rfl, q⟩
    · exact .inl ⟨by simp [hn, ht], he.trans q⟩
    · refine .inr ⟨by simp [hn, ht], false, none, ?_⟩
      rw [hb, he, q, hf, State.onset, hl, ht]
  cases i with
  | deviceReset => exact absurd rfl h
  | status g r => exact .inr ⟨rfl, false, none, rfl⟩
  | request g car dest => exact .inr ⟨rfl, false, none, rfl⟩
  | withdraw g car => exact .inr ⟨rfl, false, none, rfl⟩
  | started g car => exact .inr ⟨rfl, false, none, rfl⟩
  | arrived g car l => exact .inr ⟨rfl, false, none, rfl⟩
  | halted g car l k => exact .inr ⟨rfl, false, none, rfl⟩
  | source x k =>
    cases hx : sourceStateOf x with
    | none => exact .inr ⟨rfl, false, none, by simp [exec, execSource, State.baseOf_source, State.sourceBaseOf, State.effect, hx, State.onset, linkOf]⟩
    | some a =>
      cases hk : transKindOf k with
      | none => exact .inr ⟨rfl, false, none, by simp [exec, execSource, State.baseOf_source, State.sourceBaseOf, State.effect, hx, hk, State.onset, linkOf]⟩
      | some b =>
        exact .inr ⟨rfl, (s.begin.goodFrame .power).sourceSendsLoad a, none, by
          simp [exec, execSource, State.baseOf_source, State.sourceBaseOf, State.effect, hx, hk, State.onset, linkOf]⟩
  | capacity o a => exact .inr ⟨rfl, false, none, rfl⟩
  | profile p => exact .inr ⟨rfl, false, none, rfl⟩
  | select g x => exact .inr ⟨rfl, false, _, rfl⟩
  | block g l => exact .inr ⟨rfl, false, none, rfl⟩
  | unblock g l => exact .inr ⟨rfl, false, none, rfl⟩
  | restart n => exact .inr ⟨rfl, false, none, rfl⟩
  | retry n => exact .inr ⟨rfl, false, none, rfl⟩
  | tableWrite n v => exact .inr ⟨rfl, false, none, rfl⟩
  | tableCommit v => exact .inr ⟨rfl, false, none, rfl⟩
  | tableRead n f => exact .inr ⟨rfl, false, none, rfl⟩
  | droppedFrame p b =>
    cases p with
    | maintenance => exact .inl ⟨rfl, rfl⟩
    | link l =>
      refine .inr ⟨rfl, false, none, ?_⟩
      by_cases g : isGood b = true <;>
        simp [exec, execDroppedFrame, State.baseOf_dropped, State.effect, State.onset, linkOf, State.timerOf, g]
  | silenceTimerExpiry l => exact timer (s.link l).silence (fun a => a.silenceRunsOut l) rfl rfl rfl rfl rfl fun _ => rfl
  | strainAsserted => exact .inr ⟨rfl, false, none, rfl⟩
  | strainReleased => exact .inr ⟨rfl, false, none, rfl⟩
  | tripAsserted => exact .inr ⟨rfl, true, none, rfl⟩
  | tripReleased => exact .inr ⟨rfl, false, none, rfl⟩
  | filterTimerExpiry => exact timer s.filterTimer (State.assertFiltered) rfl rfl rfl rfl rfl fun _ => rfl
  | blankingTimerExpiry => exact timer s.blankTimer (State.blankingEnds) rfl rfl rfl rfl rfl fun _ => rfl
  | standbySettleExpiry => exact timer (s.stageEnds .settling) (State.stayStep) rfl rfl rfl rfl rfl fun _ => rfl
  | collectionTimerExpiry =>
    simp only [State.nothingFor, State.baseOf_collection, State.onset, linkOf, State.timerOf, exec, execCollectionTimerExpiry]
    cases s.stageEnds .collecting with
    | none => exact .inl ⟨rfl, rfl⟩
    | some t => exact .inr ⟨rfl, true, none, rfl⟩
  | preTransferTimerExpiry => exact timer s.preTimer (State.preTransferEnds) rfl rfl rfl rfl rfl fun _ => rfl
  | clear => exact .inr ⟨rfl, false, none, rfl⟩
  | accountTick => exact timer s.tickTimer (State.tick) rfl rfl rfl rfl rfl fun _ => rfl
  | windowTimerExpiry => exact timer s.windowTimer (State.turnWindow) rfl rfl rfl rfl rfl fun _ => rfl
  | settleAExpiry => exact timer (s.pacerEnds .settleA) (State.enterOpenA) rfl rfl rfl rfl rfl fun _ => rfl
  | openAExpiry => exact timer (s.pacerEnds .openA) (State.enterSettleB) rfl rfl rfl rfl rfl fun _ => rfl
  | settleBExpiry => exact timer (s.pacerEnds .settleB) (State.enterOpenB) rfl rfl rfl rfl rfl fun _ => rfl
  | openBExpiry => exact timer (s.pacerEnds .openB) (State.endCycle) rfl rfl rfl rfl rfl fun _ => rfl
  | admission => exact .inr ⟨rfl, false, none, rfl⟩
  | grant => exact absurd rfl hg
  | startTimerExpiry n => exact timer ((s.runOf n).bind fun r => r.state.startEnds) (fun a => a.withRun n (a.startRunsOut n)) rfl rfl rfl rfl rfl fun _ => rfl
  | runTimerExpiry n => exact timer ((s.runOf n).bind fun r => r.state.runEnds) (fun a => a.withRun n (a.runRunsOut n)) rfl rfl rfl rfl rfl fun _ => rfl
  | graceTimerExpiry n => exact timer ((s.runOf n).bind fun r => r.state.graceEnds) (fun a => a.withRun n (a.graceEnds n)) rfl rfl rfl rfl rfl fun _ => rfl
  | dwellTimerExpiry n => exact timer ((s.car n).bind Car.dwell) (fun a => a.dwellEnds n) rfl rfl rfl rfl rfl fun _ => rfl

/-! ### What an onset leaves alone -/

theorem State.onset_cases (s : State) (i : Instr) :
    (∃ l, linkOf i = some l ∧ s.onset i = s.begin.goodFrame l) ∨
    (∃ t, s.timerOf i = some (some t) ∧ s.onset i = s.begin.reach t) ∨ s.onset i = s.begin := by
  unfold State.onset
  split
  · next l h => exact .inl ⟨_, h, rfl⟩
  · next t _ h => exact .inr (.inl ⟨_, h, rfl⟩)
  · exact .inr (.inr rfl)

@[simp] theorem State.onset_phase (s : State) (i : Instr) : (s.onset i).phase = s.phase := by
  rcases s.onset_cases i with ⟨l, -, e⟩ | ⟨t, -, e⟩ | e <;> rw [e] <;> simp
@[simp] theorem State.onset_takeover (s : State) (i : Instr) : (s.onset i).takeover = s.takeover := by
  rcases s.onset_cases i with ⟨l, -, e⟩ | ⟨t, -, e⟩ | e <;> rw [e] <;> simp
@[simp] theorem State.onset_cars (s : State) (i : Instr) : (s.onset i).cars = s.cars := by
  rcases s.onset_cases i with ⟨l, -, e⟩ | ⟨t, -, e⟩ | e <;> rw [e] <;> simp
@[simp] theorem State.onset_offered (s : State) (i : Instr) : (s.onset i).offered = s.offered := by
  rcases s.onset_cases i with ⟨l, -, e⟩ | ⟨t, -, e⟩ | e <;> rw [e] <;> simp
@[simp] theorem State.onset_absorb (s : State) (i : Instr) : (s.onset i).absorb = s.absorb := by
  rcases s.onset_cases i with ⟨l, -, e⟩ | ⟨t, -, e⟩ | e <;> rw [e] <;> simp
@[simp] theorem State.onset_usable (s : State) (i : Instr) : (s.onset i).usable = s.usable := by
  rcases s.onset_cases i with ⟨l, -, e⟩ | ⟨t, -, e⟩ | e <;> rw [e] <;> simp
@[simp] theorem State.onset_absorbRoom (s : State) (i : Instr) : (s.onset i).absorbRoom = s.absorbRoom := by
  rcases s.onset_cases i with ⟨l, -, e⟩ | ⟨t, -, e⟩ | e <;> rw [e] <;> simp
@[simp] theorem State.onset_stepMax (s : State) (i : Instr) : (s.onset i).stepMax = s.stepMax := by
  rcases s.onset_cases i with ⟨l, -, e⟩ | ⟨t, -, e⟩ | e <;> rw [e] <;> simp
@[simp] theorem State.onset_peak (s : State) (i : Instr) : (s.onset i).peak = s.peak := by
  rcases s.onset_cases i with ⟨l, -, e⟩ | ⟨t, -, e⟩ | e <;> rw [e] <;> simp
@[simp] theorem State.onset_bl (s : State) (i : Instr) : (s.onset i).bl = s.bl := by
  rcases s.onset_cases i with ⟨l, -, e⟩ | ⟨t, -, e⟩ | e <;> rw [e] <;> simp
@[simp] theorem State.onset_ml (s : State) (i : Instr) : (s.onset i).ml = s.ml := by
  rcases s.onset_cases i with ⟨l, -, e⟩ | ⟨t, -, e⟩ | e <;> rw [e] <;> simp
@[simp] theorem State.onset_rl (s : State) (i : Instr) : (s.onset i).rl = s.rl := by
  rcases s.onset_cases i with ⟨l, -, e⟩ | ⟨t, -, e⟩ | e <;> rw [e] <;> simp
@[simp] theorem State.onset_clamp (s : State) (i : Instr) : (s.onset i).clamp = s.clamp := by
  rcases s.onset_cases i with ⟨l, -, e⟩ | ⟨t, -, e⟩ | e <;> rw [e] <;> simp
@[simp] theorem State.onset_blHeld (s : State) (i : Instr) : (s.onset i).blHeld = s.blHeld := by
  rcases s.onset_cases i with ⟨l, -, e⟩ | ⟨t, -, e⟩ | e <;> rw [e] <;> simp
@[simp] theorem State.onset_episode (s : State) (i : Instr) : (s.onset i).episode = s.episode := by
  rcases s.onset_cases i with ⟨l, -, e⟩ | ⟨t, -, e⟩ | e <;> rw [e] <;> simp
@[simp] theorem State.onset_accounts (s : State) (i : Instr) : (s.onset i).accounts = s.accounts := by
  rcases s.onset_cases i with ⟨l, -, e⟩ | ⟨t, -, e⟩ | e <;> rw [e] <;> simp
@[simp] theorem State.onset_serviceAccount (s : State) (i : Instr) : (s.onset i).serviceAccount = s.serviceAccount := by
  rcases s.onset_cases i with ⟨l, -, e⟩ | ⟨t, -, e⟩ | e <;> rw [e] <;> simp
@[simp] theorem State.onset_groupOrder (s : State) (i : Instr) : (s.onset i).groupOrder = s.groupOrder := by
  rcases s.onset_cases i with ⟨l, -, e⟩ | ⟨t, -, e⟩ | e <;> rw [e] <;> simp
@[simp] theorem State.onset_window (s : State) (i : Instr) : (s.onset i).window = s.window := by
  rcases s.onset_cases i with ⟨l, -, e⟩ | ⟨t, -, e⟩ | e <;> rw [e] <;> simp
@[simp] theorem State.onset_windowTimer (s : State) (i : Instr) : (s.onset i).windowTimer = s.windowTimer := by
  rcases s.onset_cases i with ⟨l, -, e⟩ | ⟨t, -, e⟩ | e <;> rw [e] <;> simp
@[simp] theorem State.onset_tickTimer (s : State) (i : Instr) : (s.onset i).tickTimer = s.tickTimer := by
  rcases s.onset_cases i with ⟨l, -, e⟩ | ⟨t, -, e⟩ | e <;> rw [e] <;> simp
@[simp] theorem State.onset_requests (s : State) (i : Instr) : (s.onset i).requests = s.requests := by
  rcases s.onset_cases i with ⟨l, -, e⟩ | ⟨t, -, e⟩ | e <;> rw [e] <;> simp
@[simp] theorem State.onset_mark (s : State) (i : Instr) : (s.onset i).mark = s.mark := by
  rcases s.onset_cases i with ⟨l, -, e⟩ | ⟨t, -, e⟩ | e <;> rw [e] <;> simp
@[simp] theorem State.onset_queue (s : State) (i : Instr) : (s.onset i).queue = s.queue := by
  rcases s.onset_cases i with ⟨l, -, e⟩ | ⟨t, -, e⟩ | e <;> rw [e] <;> simp
@[simp] theorem State.onset_slot (s : State) (i : Instr) : (s.onset i).slot = s.slot := by
  rcases s.onset_cases i with ⟨l, -, e⟩ | ⟨t, -, e⟩ | e <;> rw [e] <;> simp
@[simp] theorem State.onset_pacer (s : State) (i : Instr) : (s.onset i).pacer = s.pacer := by
  rcases s.onset_cases i with ⟨l, -, e⟩ | ⟨t, -, e⟩ | e <;> rw [e] <;> simp
@[simp] theorem State.onset_pacerTimer (s : State) (i : Instr) : (s.onset i).pacerTimer = s.pacerTimer := by
  rcases s.onset_cases i with ⟨l, -, e⟩ | ⟨t, -, e⟩ | e <;> rw [e] <;> simp
@[simp] theorem State.onset_admitted (s : State) (i : Instr) : (s.onset i).admitted = s.admitted := by
  rcases s.onset_cases i with ⟨l, -, e⟩ | ⟨t, -, e⟩ | e <;> rw [e] <;> simp
@[simp] theorem State.onset_profile (s : State) (i : Instr) : (s.onset i).profile = s.profile := by
  rcases s.onset_cases i with ⟨l, -, e⟩ | ⟨t, -, e⟩ | e <;> rw [e] <;> simp
@[simp] theorem State.onset_staged (s : State) (i : Instr) : (s.onset i).staged = s.staged := by
  rcases s.onset_cases i with ⟨l, -, e⟩ | ⟨t, -, e⟩ | e <;> rw [e] <;> simp
@[simp] theorem State.onset_filterTimer (s : State) (i : Instr) : (s.onset i).filterTimer = s.filterTimer := by
  rcases s.onset_cases i with ⟨l, -, e⟩ | ⟨t, -, e⟩ | e <;> rw [e] <;> simp
@[simp] theorem State.onset_blankTimer (s : State) (i : Instr) : (s.onset i).blankTimer = s.blankTimer := by
  rcases s.onset_cases i with ⟨l, -, e⟩ | ⟨t, -, e⟩ | e <;> rw [e] <;> simp
@[simp] theorem State.onset_filtered (s : State) (i : Instr) : (s.onset i).filtered = s.filtered := by
  rcases s.onset_cases i with ⟨l, -, e⟩ | ⟨t, -, e⟩ | e <;> rw [e] <;> simp
@[simp] theorem State.onset_trip (s : State) (i : Instr) : (s.onset i).trip = s.trip := by
  rcases s.onset_cases i with ⟨l, -, e⟩ | ⟨t, -, e⟩ | e <;> rw [e] <;> simp
@[simp] theorem State.onset_strainLine (s : State) (i : Instr) : (s.onset i).strainLine = s.strainLine := by
  rcases s.onset_cases i with ⟨l, -, e⟩ | ⟨t, -, e⟩ | e <;> rw [e] <;> simp
@[simp] theorem State.onset_tripLine (s : State) (i : Instr) : (s.onset i).tripLine = s.tripLine := by
  rcases s.onset_cases i with ⟨l, -, e⟩ | ⟨t, -, e⟩ | e <;> rw [e] <;> simp
@[simp] theorem State.onset_selection (s : State) (i : Instr) : (s.onset i).selection = s.selection := by
  rcases s.onset_cases i with ⟨l, -, e⟩ | ⟨t, -, e⟩ | e <;> rw [e] <;> simp
@[simp] theorem State.onset_blocked (s : State) (i : Instr) : (s.onset i).blocked = s.blocked := by
  rcases s.onset_cases i with ⟨l, -, e⟩ | ⟨t, -, e⟩ | e <;> rw [e] <;> simp
@[simp] theorem State.onset_stored (s : State) (i : Instr) : (s.onset i).stored = s.stored := by
  rcases s.onset_cases i with ⟨l, -, e⟩ | ⟨t, -, e⟩ | e <;> rw [e] <;> simp
@[simp] theorem State.onset_table (s : State) (i : Instr) : (s.onset i).table = s.table := by
  rcases s.onset_cases i with ⟨l, -, e⟩ | ⟨t, -, e⟩ | e <;> rw [e] <;> simp
@[simp] theorem State.onset_fallback (s : State) (i : Instr) : (s.onset i).fallback = s.fallback := by
  rcases s.onset_cases i with ⟨l, -, e⟩ | ⟨t, -, e⟩ | e <;> rw [e] <;> simp
@[simp] theorem State.onset_pendingImage (s : State) (i : Instr) : (s.onset i).pendingImage = s.pendingImage := by
  rcases s.onset_cases i with ⟨l, -, e⟩ | ⟨t, -, e⟩ | e <;> rw [e] <;> simp
@[simp] theorem State.onset_written (s : State) (i : Instr) : (s.onset i).written = s.written := by
  rcases s.onset_cases i with ⟨l, -, e⟩ | ⟨t, -, e⟩ | e <;> rw [e] <;> simp
@[simp] theorem State.onset_grants (s : State) (i : Instr) : (s.onset i).grants = s.grants := by
  rcases s.onset_cases i with ⟨l, -, e⟩ | ⟨t, -, e⟩ | e <;> rw [e] <;> simp
@[simp] theorem State.onset_pending (s : State) (i : Instr) : (s.onset i).pending = s.pending := by
  rcases s.onset_cases i with ⟨l, -, e⟩ | ⟨t, -, e⟩ | e <;> rw [e] <;> simp

@[simp] theorem State.onset_car (s : State) (i : Instr) (n : CarName) : (s.onset i).car n = s.car n := State.car_congr (by simp) n

@[simp] theorem State.onset_body (s : State) (i : Instr) (n : CarName) : (s.onset i).body n = s.body n := State.body_congr (by simp) n

@[simp] theorem State.onset_runOf (s : State) (i : Instr) (n : CarName) : (s.onset i).runOf n = s.runOf n :=
  State.runOf_congr (by simp) n

@[simp] theorem State.onset_waiting (s : State) (i : Instr) : (s.onset i).waiting = s.waiting :=
  State.waiting_congr (by simp) (by simp)

theorem State.fresh_onset {s : State} (h : s.Fresh) (i : Instr) : (s.onset i).Fresh := by
  rcases s.onset_cases i with ⟨l, -, e⟩ | ⟨t, -, e⟩ | e <;> rw [e]
  · exact State.fresh_goodFrame (State.fresh_begin h) l
  · exact State.fresh_reach (State.fresh_begin h) t
  · exact State.fresh_begin h

/-- What a command other than a device reset and GRANT answers. -/
theorem exec_next {i : Instr} {s t : State} (h : exec i s = .next t) (r : i ≠ .deviceReset) (hg : i ≠ .grant) :
    t = s.begin ∨ ∃ load asked, t = (s.baseOf i).endEvent ((s.onset i).effect i) load asked := by
  rcases exec_shape i s r hg with ⟨-, e⟩ | ⟨-, load, asked, e⟩
  · rw [h] at e; exact .inl (Host.Outcome.next.inj e)
  · rw [h] at e; exact .inr ⟨load, asked, Host.Outcome.next.inj e⟩

/-- The same by the frame of the end of an event, after its evaluation of the CLEAR condition (State.clearAfter_cases). -/
theorem exec_ends {i : Instr} {s t : State} (h : exec i s = .next t) (r : i ≠ .deviceReset) (hg : i ≠ .grant) :
    t = s.begin ∨ ((s.baseOf i).clearAfter ((s.onset i).effect i)).Ends t := by
  rcases exec_next h r hg with e | ⟨load, asked, e⟩
  · exact .inl e
  · exact .inr (e ▸ State.endEvent_ends _ _ _ _)

end Sys2Proof.Machine
end

