-- ==== Sys2Proof/Laws/Effects.lean ====
section
/-! SUPPORT. What the effect of each command leaves alone: most stay within State.Stays; the others are said one by one. -/

namespace Sys2Proof.Machine

/-! ### Group messages -/

theorem State.refuse_toGroup_keeps (s : State) (g : GroupNo) (b : Byte) (r : RefuseReason) : s.Keeps (s.toGroup g (.refuse b r)) :=
  s.toGroup_keeps g _

/-- Telling the Selector changes nothing but whether a selection is due. -/
theorem State.askSelection_keeps (s : State) : s.Keeps s.askSelection := .of_eq rfl rfl rfl rfl rfl rfl rfl

theorem State.acceptRequest_keeps (s : State) (n : CarName) (c : Car) (l : Landing) : s.Keeps (s.acceptRequest n c l) :=
  (State.askSelection_keeps _).after (.ite (.of_eq rfl rfl rfl rfl rfl rfl rfl) (s.addEntry_keeps n _ _ _))

theorem State.takeRequest_keeps (s : State) (g : GroupNo) (car dest : Byte) : s.Keeps (s.takeRequest g car dest) := by
  unfold State.takeRequest
  split
  · exact s.toGroup_keeps g _
  · split
    · exact s.toGroup_keeps g _
    · split
      · exact s.toGroup_keeps g _
      · exact s.acceptRequest_keeps _ _ _

theorem State.acceptWithdraw_keeps (s : State) (n : CarName) : s.Keeps (s.acceptWithdraw n) :=
  .ite ((State.comeToRest_keeps _ n).after (s.removeEntry_keeps n))
    (.ite ((State.comeToRest_keeps _ n).after (s.cancelWaiting_keeps n)) (.refl s))

theorem State.takeWithdraw_keeps (s : State) (g : GroupNo) (car : Byte) : s.Keeps (s.takeWithdraw g car) := by
  unfold State.takeWithdraw
  split
  · exact s.toGroup_keeps g _
  · split
    · exact s.toGroup_keeps g _
    · exact .ite (s.toGroup_keeps g _) (.ite (s.toGroup_keeps g _) (s.acceptWithdraw_keeps _))

theorem State.takeStarted_keeps (s : State) (n : CarName) : s.Keeps (s.takeStarted n) := by
  unfold State.takeStarted
  split
  · next r h =>
    split
    · exact State.runStarted_keeps h
    · exact .refl s
    · exact .refl s
  · exact .ite (s.moveUnpermitted_keeps n) (.refl s)

theorem State.takeHalted_keeps (s : State) (n : CarName) (l : Option Landing) (k : HaltCause) :
    State.KeepsBut n s (s.takeHalted n l k) := by
  unfold State.takeHalted
  split
  · exact ((State.writePlace_keeps _ n _).upon ((State.endUnpermitted_keeps _ n).after (s.dropRun_keeps n))).then
      (s.endHalted_keeps n _ l k)
  · exact s.lateReport_keeps n l

theorem State.takeArrived_keeps (s : State) (n : CarName) (l : Option Landing) : State.KeepsBut n s (s.takeArrived n l) := by
  unfold State.takeArrived
  split
  · exact s.takeHalted_keeps n _ _
  · split
    · exact ((State.writePlace_keeps _ n _).upon ((State.endUnpermitted_keeps _ n).after (s.dropRun_keeps n))).then
        (s.endArrived_keeps n _ _)
    · exact s.lateReport_keeps n _

theorem State.onCarOf_keeps (s : State) (g : GroupNo) (b : Byte) (f : CarName → State → State)
    (h : ∀ n, s.Keeps (f n s)) : s.Keeps (s.onCarOf g b f) := by
  unfold State.onCarOf
  split
  · exact .ite (h _) (.refl s)
  · exact .refl s

/-! ### Panel messages -/

theorem State.refused_keeps (s : State) (b : Byte) (r : RefusedReason) : s.Keeps (s.refused b r) := s.toPanel_keeps _

theorem State.dropMember_keeps (s : State) (n : CarName) : s.Keeps (s.dropMember n) := by
  unfold State.dropMember
  split
  · split
    · exact .ite (s.leaveSet_keeps n) (.refl s)
    · exact .refl s
  · exact .refl s

/-- An accepted SELECT writes the selection, and keeps the frame from then on (R147). -/
theorem State.acceptSelect_keeps (s : State) (g : GroupNo) (x : Selection) :
    ({ s with selection := s.selection.set g x } : State).Keeps (s.acceptSelect g x) :=
  .ite (State.Keeps.foldl (fun a n => State.dropMember_keeps a n) _ _) (.refl _)

theorem State.blockEntry_keeps (s : State) (n : CarName) (c : Car) : s.Keeps (s.blockEntry n c) := by
  unfold State.blockEntry
  split
  · exact (State.arrivalEffect_keeps _ n).after ((State.comeToRest_keeps _ n).after (s.removeEntry_keeps n))
  · split
    · exact .of_eq rfl rfl rfl rfl rfl rfl rfl
    · exact s.parkInPlace_keeps n

theorem State.blockWaiting_keeps (s : State) (n : CarName) (c : Car) (w : Waiting) : s.Keeps (s.blockWaiting n c w) := by
  have k := (State.comeToRest_keeps _ n).after (s.cancelWaiting_keeps n)
  exact .ite (k.trans (State.arrivalEffect_keeps _ n)) (k.trans (State.recallEntry_keeps _ n _))

theorem State.blockDwell_keeps (s : State) (n : CarName) : s.Keeps (s.blockDwell n) :=
  (s.stopDwell_keeps n).trans (State.sendToRecall_keeps _ n)

theorem State.blockCar_keeps (s : State) (l : Landing) (n : CarName) : s.Keeps (s.blockCar l n) := by
  unfold State.blockCar
  repeat' split
  all_goals first
    | exact .refl s
    | exact s.blockEntry_keeps n _
    | exact s.blockWaiting_keeps n _ _
    | exact s.curtailRun_keeps n _
    | exact s.blockDwell_keeps n

/-- A landing that joins the blocked set is written, and the frame kept from then on (R139, R140). -/
theorem State.joinBlocked_keeps (s : State) (g : GroupNo) (l : Landing) :
    ({ s with blocked := s.blocked.set g (s.blocked[g] ++ [l]) } : State).Keeps (s.joinBlocked g l) :=
  .ite (State.Keeps.foldl (fun a n => State.blockCar_keeps a l n) _ _) (.refl _)

theorem State.unblockEntry_keeps (s : State) (n : CarName) : s.Keeps (s.unblockEntry n) := by
  unfold State.unblockEntry
  split
  · split
    · exact .ite (.ite ((State.arrivalEffect_keeps _ n).after ((State.comeToRest_keeps _ n).after (s.removeEntry_keeps n)))
        (.of_eq rfl rfl rfl rfl rfl rfl rfl)) (.refl s)
    · exact .refl s
  · exact .refl s

theorem State.unblockParked_keeps (s : State) (n : CarName) : s.Keeps (s.unblockParked n) := .ite (s.replanInPlace_keeps n) (.refl s)

/-- A landing that leaves the blocked set is taken out, and the frame kept from then on (R139). -/
theorem State.leaveBlocked_keeps (s : State) (g : GroupNo) (l : Landing) :
    ({ s with blocked := s.blocked.set g ((s.blocked[g]).filter fun x => x ≠ l) } : State).Keeps (s.leaveBlocked g l) :=
  .ite ((State.Keeps.foldl (fun a n => State.unblockParked_keeps a n) _ _).after
    (State.Keeps.foldl (fun a n => State.unblockEntry_keeps a n) _ _)) (.refl _)

theorem State.takeRestart_stays (s : State) (b : Byte) : s.Stays (s.takeRestart b) :=
  .ite (.ite (s.alertWaitRestart_stays b) s.resume_stays) (.refl s)

theorem State.acceptRetry_keeps (s : State) (n : CarName) (c : Car) : s.Keeps (s.acceptRetry n c) := by
  have a : s.Keeps (s.modCar n fun x => { x with attempts := 0 }) := s.modCar_keeps n _ (fun _ => rfl) fun _ => rfl
  unfold State.acceptRetry
  dsimp only
  generalize (s.modCar n fun x => { x with attempts := 0 }) = t at a ⊢
  have b : s.Keeps (if c.motion = .out .runTimeout then t.comeToRest n else t) := .ite (a.trans (t.comeToRest_keeps n)) a
  generalize (if c.motion = .out .runTimeout then t.comeToRest n else t) = u at b ⊢
  have d : s.Keeps (if c.step = .givenUp then (u.giveOrder n .stay).setStep n .awaiting else u) :=
    .ite ((State.setStep_keeps _ n _).after (b.trans (u.giveOrder_keeps n _))) b
  exact .ite d (d.trans (State.planArrival_keeps _ n))

theorem State.takeRetry_keeps (s : State) (b : Byte) : s.Keeps (s.takeRetry b) := by
  unfold State.takeRetry
  split
  · exact s.refused_keeps _ _
  · split
    · exact s.refused_keeps _ _
    · exact .ite (s.refused_keeps _ _) (.ite (s.refused_keeps _ _) (s.acceptRetry_keeps _ _))

/-! ### The maintenance port -/

theorem State.toPort_keeps (s : State) (m : OutMsg) : s.Keeps (s.toPort m) := s.emit_keeps _ m

theorem State.takeRead_keeps (s : State) (n f : Byte) : s.Keeps (s.takeRead n f) := by
  unfold State.takeRead
  split
  · exact s.toPort_keeps _
  · exact .ite (s.toPort_keeps _) (.ite (s.toPort_keeps _) (s.toPort_keeps _))

/-- A TABLE_WRITE writes at most the pending image (R163). -/
theorem State.takeWrite_shape (s : State) (n : Byte) (v : List Byte) :
    ∃ img, ({ s with pendingImage := img } : State).Keeps (s.takeWrite n v) := by
  unfold State.takeWrite
  split
  · exact ⟨_, s.toPort_keeps _⟩
  · split
    · exact ⟨_, s.toPort_keeps _⟩
    · split
      · exact ⟨_, State.toPort_keeps _ _⟩
      · exact ⟨_, s.toPort_keeps _⟩

/-! ### Lines and timers -/

theorem State.strainRises_stays (s : State) : s.Stays s.strainRises := by
  have k : s.Stays { s with strainLine := true } := .of_eq rfl rfl rfl rfl rfl rfl rfl
  exact .ite k (k.trans (State.startFilter_stays _))

theorem State.strainFalls_stays (s : State) : s.Stays s.strainFalls := by
  have k : s.Stays { s with strainLine := false } := .of_eq rfl rfl rfl rfl rfl rfl rfl
  unfold State.strainFalls
  dsimp only
  split
  · exact k
  · split
    · exact (State.resumeIfClear_stays _).after (k.trans (.of_eq rfl rfl rfl rfl rfl rfl rfl))
    · exact k.trans (.of_eq rfl rfl rfl rfl rfl rfl rfl)

theorem State.tripRises_stays (s : State) : s.Stays s.tripRises := by
  have k : s.Stays { s with tripLine := true, trip := true } := .of_eq rfl rfl rfl rfl rfl rfl rfl
  have k := k.trans (State.Keeps.foldl (fun a n => State.abandonRun_keeps a n) s.inFlightCars _).stays
  have k := k.trans (State.Keeps.foldl State.cancelAndRenew_keeps s.waiting _).stays
  exact k.trans (State.tripOrder_stays _ _ _)

theorem State.tripFalls_stays (s : State) : s.Stays ({ s with tripLine := false, trip := false } : State).resumeIfClear :=
  (State.resumeIfClear_stays _).after (.of_eq rfl rfl rfl rfl rfl rfl rfl)

theorem State.blankingEnds_stays (s : State) : s.Stays s.blankingEnds := by
  have k : s.Stays { s with blankTimer := none } := .of_eq rfl rfl rfl rfl rfl rfl rfl
  exact .ite (k.trans (State.startFilter_stays _)) k

theorem State.dwellEnds_keeps (s : State) (n : CarName) : s.Keeps (s.dwellEnds n) :=
  (State.park_keeps _ n).after (s.modCar_keeps n (fun c => { c with dwell := none }) (fun _ => rfl) fun _ => rfl)

theorem State.withRun_keeps (s : State) (n : CarName) (f : Run → State) (h : ∀ r, s.runOf n = some r → s.Keeps (f r)) :
    s.Keeps (s.withRun n f) := by
  unfold State.withRun
  split
  · next r hr => exact h r hr
  · exact .refl s

theorem State.graceEnds_keeps (s : State) (n : CarName) (r : Run) : s.Keeps (s.graceEnds n r) := by
  unfold State.graceEnds
  split
  · exact s.graceRunsOut_keeps n r _
  · exact .refl s
  · exact .refl s

/-! ### The part's own decisions -/

theorem State.preemptFor_stays (s : State) (m : PreemptMode) (e : Option Entry) : s.Stays (s.preemptFor m e) :=
  (s.preemptFor_keeps m e).stays

/-- The commands whose effect stays within the settings, the reported data and the permits there are. -/
def isTame : Instr → Bool
  | .status _ _ | .arrived _ _ _ | .halted _ _ _ _ | .source _ _ | .select _ _ | .block _ _ | .unblock _ _ | .tableWrite _ _
  | .tableCommit _ | .standbySettleExpiry | .admission | .grant => false
  | _ => true

/-- The effect of a tame command. -/
theorem State.effect_stays (s : State) (i : Instr) (h : isTame i = true) : s.Stays (s.effect i) := by
  cases i with
  | deviceReset => exact .refl s
  | request g c d => exact (s.takeRequest_keeps g c d).stays
  | withdraw g c => exact (s.takeWithdraw_keeps g c).stays
  | started g c => exact (s.onCarOf_keeps g c (fun n s => s.takeStarted n) fun n => s.takeStarted_keeps n).stays
  | capacity o a => exact .of_eq rfl rfl rfl rfl rfl rfl rfl
  | profile p =>
    exact .ite (.of_eq rfl rfl rfl rfl rfl rfl rfl) ((State.activateStaged_stays _).after (.of_eq rfl rfl rfl rfl rfl rfl rfl))
  | restart n => exact s.takeRestart_stays n
  | retry n => exact (s.takeRetry_keeps n).stays
  | tableRead n f => exact (s.takeRead_keeps n f).stays
  | droppedFrame p b => exact .refl s
  | silenceTimerExpiry l => exact s.silenceRunsOut_stays l
  | strainAsserted => exact s.strainRises_stays
  | strainReleased => exact s.strainFalls_stays
  | tripAsserted => exact s.tripRises_stays
  | tripReleased => exact s.tripFalls_stays
  | filterTimerExpiry => exact s.assertFiltered_stays
  | blankingTimerExpiry => exact s.blankingEnds_stays
  | collectionTimerExpiry => exact s.endCollection_stays
  | preTransferTimerExpiry => exact s.preTransferEnds_stays
  | clear => exact s.tryClear_stays
  | accountTick => exact s.tick_stays
  | windowTimerExpiry => exact s.turnWindow_stays
  | settleAExpiry => exact s.enterOpenA_stays
  | openAExpiry => exact s.enterSettleB_stays
  | settleBExpiry => exact s.enterOpenB_stays
  | openBExpiry => exact s.endCycle_stays
  | startTimerExpiry n => exact (s.withRun_keeps n _ fun r _ => s.startRunsOut_keeps n r).stays
  | runTimerExpiry n => exact (s.withRun_keeps n _ fun r hr => State.runRunsOut_keeps hr).stays
  | graceTimerExpiry n => exact (s.withRun_keeps n _ fun r _ => s.graceEnds_keeps n r).stays
  | dwellTimerExpiry n => exact (s.dwellEnds_keeps n).stays
  | _ => cases h

end Sys2Proof.Machine
end

