-- ==== Sys2Proof/Laws/Local.lean ====
section
/-! SUPPORT. What is done for one car stays with that car: State.Local n s t says that t differs from s in no control state, and of the
cars, entries and permits in those of car n alone. One lemma per operation that names a car. -/

namespace Sys2Proof.Machine

/-- t differs from s, but for what was sent, the figures and the episode mark, in what belongs to car n alone. -/
structure State.Local (n : CarName) (s t : State) : Prop where
  control : t.control = s.control
  cars : ∀ m, m ≠ n → t.car m = s.car m
  entries : ∀ g : GroupNo, (t.requests[g]).filter (fun e => e.car ≠ n) = (s.requests[g]).filter fun e => e.car ≠ n
  mark : s.mark ≠ some n → t.mark = s.mark
  waits : t.waiting.filter (fun w => w.car ≠ n) = s.waiting.filter fun w => w.car ≠ n
  sent : s.outbox <+: t.outbox
  accounts : ∀ g : GroupNo, g ≠ groupOf n → t.accounts[g] = s.accounts[g]

namespace State.Local

variable {n : CarName} {s t u : State}

theorem refl (s : State) : State.Local n s s :=
  ⟨rfl, fun _ _ => rfl, fun _ => rfl, fun _ => rfl, rfl, List.prefix_refl _, fun _ _ => rfl⟩

theorem trans (h : State.Local n s t) (k : State.Local n t u) : State.Local n s u where
  control := k.control.trans h.control
  cars m q := (k.cars m q).trans (h.cars m q)
  entries g := (k.entries g).trans (h.entries g)
  mark q := by have e := h.mark q; exact (k.mark (e ▸ q)).trans e
  waits := k.waits.trans h.waits
  sent := h.sent.trans k.sent
  accounts g q := (k.accounts g q).trans (h.accounts g q)

/-- The same with the later part first, from which the state between is read. -/
theorem after (k : State.Local n t u) (h : State.Local n s t) : State.Local n s u := h.trans k

theorem ite {p : Prop} [Decidable p] (h : State.Local n s t) (k : State.Local n s u) : State.Local n s (if p then t else u) := by
  split
  · exact h
  · exact k

/-- Only the figures and the episode mark may differ. -/
theorem of_eq (c : t.control = s.control) (h : t.cars = s.cars) (o : t.outbox = s.outbox) (q : t.queue = s.queue)
    (d : t.slot = s.slot) (a : t.accounts = s.accounts) (r : t.requests = s.requests) (m : t.mark = s.mark) : State.Local n s t :=
  ⟨c, fun x _ => State.car_congr h x, fun g => by rw [r], fun _ => m, by rw [State.waiting_congr q d], o ▸ List.prefix_refl _,
    fun g _ => by rw [a]⟩

/-- A filter of a list in which only what the filter leaves out has changed. -/
theorem filter_map_of_fix {α : Type} {f : α → α} {p : α → Bool} (h : ∀ x, p x = true → f x = x) (k : ∀ x, p x = false → p (f x) = false) :
    ∀ l : List α, (l.map f).filter p = l.filter p
  | [] => rfl
  | x :: l => by
    cases q : p x with
    | true => simp [h x q, q, filter_map_of_fix h k l]
    | false => simp [k x q, q, filter_map_of_fix h k l]

/-- Only the list of the car's group differs, and there nothing but the car's own entries; and of the marks only one on the car. -/
theorem of_list {r : List Entry} {m : Option CarName}
    (h : r.filter (fun e => e.car ≠ n) = (s.requests[groupOf n]).filter fun e => e.car ≠ n) (k : s.mark ≠ some n → m = s.mark) :
    State.Local n s { s with requests := s.requests.set (groupOf n) r, mark := m } := by
  refine ⟨rfl, fun _ _ => rfl, fun g => ?_, k, rfl, List.prefix_refl _, fun _ _ => rfl⟩
  show ((s.requests.set (groupOf n) r)[g]).filter _ = _
  by_cases e : groupOf n = g
  · subst e
    simpa using h
  · have : (groupOf n).val ≠ g.val := fun q => e (Fin.ext q)
    simp [this]

end State.Local

/-! ### Records, messages, orders -/

theorem State.putCar_local (s : State) (n : CarName) (c : Car) : State.Local n s (s.putCar n c) :=
  ⟨rfl, fun _ q => s.car_putCar_ne (fun e => q e.symm) c, fun _ => rfl, fun _ => rfl, rfl, List.prefix_refl _, fun _ _ => rfl⟩

theorem State.modCar_local (s : State) (n : CarName) (f : Car → Car) : State.Local n s (s.modCar n f) := by
  unfold State.modCar
  split
  · exact s.putCar_local n _
  · exact .refl s

theorem State.setMotion_local (s : State) (n : CarName) (m : Motion) : State.Local n s (s.setMotion n m) := s.modCar_local n _

theorem State.comeToRest_local (s : State) (n : CarName) : State.Local n s (s.comeToRest n) := s.modCar_local n _

theorem State.emit_local (s : State) (n : CarName) (p : Port) (m : OutMsg) : State.Local n s (s.emit p m) := by
  have k := s.emit_keeps p m
  obtain ⟨o, e⟩ := s.emit_shape p m
  rw [e] at k ⊢
  exact ⟨k.control, fun _ _ => rfl, fun _ => rfl, fun _ => rfl, rfl, k.sent, fun _ _ => rfl⟩

theorem State.toGroup_local (s : State) (n : CarName) (g : GroupNo) (m : OutMsg) : State.Local n s (s.toGroup g m) := s.emit_local n _ m

theorem State.toPanel_local (s : State) (n : CarName) (m : OutMsg) : State.Local n s (s.toPanel m) := s.emit_local n _ m

theorem State.giveOrder_local (s : State) (n : CarName) (o : Order) : State.Local n s (s.giveOrder n o) :=
  .ite ((State.toGroup_local _ n _ _).after (s.modCar_local n _)) (.refl s)

theorem State.stopNow_local (s : State) (n : CarName) : State.Local n s (s.stopNow n) := s.emit_local n _ _

theorem State.stopNext_local (s : State) (n : CarName) : State.Local n s (s.stopNext n) := s.emit_local n _ _

theorem State.refuse_local (s : State) (n : CarName) (r : RefuseReason) : State.Local n s (s.refuse n r) := s.emit_local n _ _

theorem State.stopDwell_local (s : State) (n : CarName) : State.Local n s (s.stopDwell n) := s.modCar_local n _

/-! ### Entries -/

theorem filter_insertEntry {p : Entry → Bool} {e : Entry} (h : p e = false) : ∀ l, (insertEntry e l).filter p = l.filter p
  | [] => by simp [insertEntry, h]
  | x :: l => by
    unfold insertEntry
    split
    · simp [List.filter_cons, filter_insertEntry h l]
    · simp [List.filter_cons, h]

theorem State.removeEntry_local (s : State) (n : CarName) : State.Local n s (s.removeEntry n) := by
  unfold State.removeEntry
  split
  · refine .of_list ?_ fun q => by simp [q]
    rw [List.filter_filter]
    simp
  · exact .refl s

theorem State.addEntry_local (s : State) (n : CarName) (cls : RunClass) (d : Option Landing) (a : Nat) :
    State.Local n s (s.addEntry n cls d a) :=
  (State.modCar_local _ n _).after ((State.Local.of_list (filter_insertEntry (by simp) _) fun _ => rfl).after (s.removeEntry_local n))

theorem State.dropGroupEntry_local (s : State) (n : CarName) : State.Local n s (s.dropGroupEntry n) := by
  unfold State.dropGroupEntry
  split
  · exact .ite (.refl s) ((State.comeToRest_local _ n).after ((State.refuse_local _ n _).after (s.removeEntry_local n)))
  · exact .refl s

theorem State.setStep_local (s : State) (n : CarName) (r : RecoveryStep) : State.Local n s (s.setStep n r) := by
  unfold State.setStep
  split
  · exact .ite ((State.dropGroupEntry_local _ n).after (s.putCar_local n _)) (s.putCar_local n _)
  · exact .refl s

theorem State.syncEntry_local (s : State) (n : CarName) : State.Local n s (s.syncEntry n) := by
  unfold State.syncEntry
  split
  · refine .of_list (State.Local.filter_map_of_fix (fun x h => ?_) (fun x h => ?_) _) fun q => by simp [q]
    · simp only [ne_eq, decide_not, Bool.not_eq_eq_eq_not, Bool.not_true, decide_eq_false_iff_not] at h
      simp [h]
    · simp only [ne_eq, decide_not, Bool.not_eq_eq_eq_not, Bool.not_false, decide_eq_true_eq] at h
      simp only [h, if_true]
      unfold State.keepEntry
      split <;> simp [h]
  · exact .refl s

theorem State.redirect_local (s : State) (n : CarName) (f : Entry → Entry) (h : ∀ e, (f e).car = e.car) :
    State.Local n s { s with
      requests := s.requests.set (groupOf n) ((s.requests[groupOf n]).map fun e => if e.car = n then f e else e),
      mark := if s.mark = some n then none else s.mark } := by
  refine .of_list (State.Local.filter_map_of_fix (fun x q => ?_) (fun x q => ?_) _) fun q => by simp [q]
  · simp only [ne_eq, decide_not, Bool.not_eq_eq_eq_not, Bool.not_true, decide_eq_false_iff_not] at q
    simp [q]
  · simp only [ne_eq, decide_not, Bool.not_eq_eq_eq_not, Bool.not_false, decide_eq_true_eq] at q
    simp [q, h]

theorem State.redirectRequest_local (s : State) (n : CarName) (l : Landing) : State.Local n s (s.redirectRequest n l) :=
  s.redirect_local n (fun e => { e with destination := some l, cls := s.requestClass n }) fun _ => rfl

theorem State.redirectRecall_local (s : State) (n : CarName) (l : Landing) : State.Local n s (s.redirectRecall n l) :=
  s.redirect_local n (fun e => { e with destination := some l }) fun _ => rfl

/-! ### Permits -/

theorem State.cancelWaiting_local (s : State) (n : CarName) : State.Local n s (s.cancelWaiting n) := by
  unfold State.cancelWaiting
  split
  · refine ⟨rfl, fun _ _ => rfl, fun _ => rfl, fun _ => rfl, ?_, List.prefix_refl _, fun g q => ?_⟩
    · rw [State.waiting_dropWaiting, List.filter_filter]
      simp [State.waiting, State.refund]
    · show ((s.refund n _).accounts)[g] = _
      rw [State.refund_accounts]
      have : (groupOf n).val ≠ g.val := fun h => q (Fin.ext h).symm
      simp [this]
  · exact .refl s

theorem State.refund_local (s : State) (n : CarName) (p : Permit) : State.Local n s (s.refund n p) := by
  refine ⟨rfl, fun _ _ => rfl, fun _ => rfl, fun _ => rfl, rfl, List.prefix_refl _, fun g q => ?_⟩
  rw [State.refund_accounts]
  have : (groupOf n).val ≠ g.val := fun h => q (Fin.ext h).symm
  simp [this]

theorem State.answerCancelled_local (s : State) (n : CarName) (cls : RunClass) : State.Local n s (s.answerCancelled n cls) :=
  .ite (.refl s) (s.refuse_local n _)

theorem State.dispose_local (s : State) (n : CarName) : State.Local n s (s.dispose n) := by
  unfold State.dispose
  split
  · exact (State.answerCancelled_local _ n _).after (s.removeEntry_local n)
  · split
    · exact (State.answerCancelled_local _ n _).after (s.cancelWaiting_local n)
    · exact .refl s

theorem State.takeOut_local (s : State) (n : CarName) : State.Local n s (s.takeOut n) := .ite (s.removeEntry_local n) (s.cancelWaiting_local n)

/-! ### Run actions, and going OUT -/

theorem State.dropRun_local (s : State) (n : CarName) : State.Local n s (s.dropRun n) := s.modCar_local n _

theorem State.completeRun_local (s : State) (n : CarName) (f : FollowUps) : State.Local n s (s.completeRun n f) := s.modCar_local n _

theorem State.curtailRun_local (s : State) (n : CarName) (f : FollowUps) : State.Local n s (s.curtailRun n f) := by
  unfold State.curtailRun
  split
  · split
    · dsimp only
      split
      · exact (State.stopNext_local _ n).after (s.putCar_local n _)
      · exact s.putCar_local n _
    · exact .refl s
  · exact .refl s

theorem State.abandonRun_local (s : State) (n : CarName) : State.Local n s (s.abandonRun n) := by
  unfold State.abandonRun
  split
  · split
    · dsimp only
      have k := fun c => (State.stopNow_local _ n).after (s.putCar_local n c)
      split
      · exact (k _).trans (State.setStep_local _ n _)
      · exact k _
    · exact .refl s
  · exact .refl s

theorem State.goOut_local (s : State) (n : CarName) (r : OutReason) : State.Local n s (s.goOut n r) :=
  (State.modCar_local _ n _).after ((State.stopDwell_local _ n).after (s.removeEntry_local n))

theorem State.unpermittedMotion_local (s : State) (n : CarName) : State.Local n s (s.unpermittedMotion n) := by
  unfold State.unpermittedMotion
  split
  · exact .ite (.refl s) ((State.toPanel_local _ n _).after ((State.stopNow_local _ n).after (s.putCar_local n _)))
  · exact .refl s

theorem State.endUnpermitted_local (s : State) (n : CarName) : State.Local n s (s.endUnpermitted n) := s.modCar_local n _

/-! ### The Recall Planner -/

theorem State.park_local (s : State) (n : CarName) : State.Local n s (s.park n) := (State.giveOrder_local _ n _).after (s.setStep_local n _)

theorem State.parkInPlace_local (s : State) (n : CarName) : State.Local n s (s.parkInPlace n) := by
  have a : State.Local n s (if (s.entryOf n).isSome then (s.removeEntry n).comeToRest n else s) :=
    .ite ((State.comeToRest_local _ n).after (s.removeEntry_local n)) (.refl s)
  have b := (State.modCar_local _ n fun x => { x with noLanding := true, planDue := false }).after ((State.park_local _ n).after a)
  unfold State.parkInPlace
  split
  · dsimp only
    split
    · exact b.trans (State.toPanel_local _ n _)
    · exact b
  · exact .refl s

theorem State.startDwell_local (s : State) (n : CarName) : State.Local n s (s.startDwell n) :=
  (State.modCar_local _ n _).after ((State.giveOrder_local _ n _).after (s.setStep_local n _))

theorem State.recallEntry_local (s : State) (n : CarName) (a : Nat) : State.Local n s (s.recallEntry n a) := by
  unfold State.recallEntry
  split
  · refine .ite (.refl s) (.ite ?_ (s.addEntry_local n _ _ _))
    split
    · split
      · exact .ite (s.startDwell_local n) (s.addEntry_local n _ _ _)
      · exact s.parkInPlace_local n
    · exact s.addEntry_local n _ _ _
  · exact .refl s

theorem State.becomeDue_local (s : State) (n : CarName) : State.Local n s (s.becomeDue n) := by
  unfold State.becomeDue
  split
  · exact .ite (s.setStep_local n _) ((State.setStep_local _ n _).after (s.giveOrder_local n _))
  · exact .refl s

theorem State.sendToRecall_local (s : State) (n : CarName) : State.Local n s (s.sendToRecall n) := by
  unfold State.sendToRecall
  split
  · exact .ite (s.parkInPlace_local n) ((State.recallEntry_local _ n _).after (s.becomeDue_local n))
  · exact .refl s

theorem State.planFrom_local (s : State) (n : CarName) (r : RecoveryStep) : State.Local n s (s.planFrom n r) := by
  unfold State.planFrom
  split
  · refine .ite (.refl s) ?_
    have a := fun (p : Prop) [Decidable p] => State.Local.ite (p := p) (s.startDwell_local n) (s.sendToRecall_local n)
    have b := fun (p : Prop) [Decidable p] => State.Local.ite (p := p) (s.park_local n) (s.sendToRecall_local n)
    cases r
    all_goals first | exact a _ | exact b _ | exact .refl s
  · exact .refl s

theorem State.plan_local (s : State) (n : CarName) : State.Local n s (s.plan n) := by
  unfold State.plan
  split
  · exact s.planFrom_local n _
  · exact .refl s

theorem State.replanInPlace_local (s : State) (n : CarName) : State.Local n s (s.replanInPlace n) :=
  (State.planFrom_local _ n _).after (s.modCar_local n _)

theorem State.arrivalEffect_local (s : State) (n : CarName) : State.Local n s (s.arrivalEffect n) := by
  unfold State.arrivalEffect
  split
  · exact .ite (s.startDwell_local n) (.ite (s.parkInPlace_local n) ((State.recallEntry_local _ n _).after (s.setStep_local n _)))
  · exact .refl s

theorem State.countAttempt_local (s : State) (n : CarName) : State.Local n s (s.countAttempt n) := s.modCar_local n _

theorem State.giveUp_local (s : State) (n : CarName) (c : FailCause) : State.Local n s (s.giveUp n c) := by
  have k := s.setStep_local n .givenUp
  exact (State.toPanel_local _ n _).after ((State.modCar_local _ n _).after
    (.ite ((State.comeToRest_local _ n).after ((State.removeEntry_local _ n).after k)) k))

theorem State.recallFailed_local (s : State) (n : CarName) (c : FailCause) : State.Local n s (s.recallFailed n c) :=
  .ite (.refl s) (.ite (s.giveUp_local n c) ((State.recallEntry_local _ n _).after (s.setStep_local n _)))

theorem State.locate_local (s : State) (n : CarName) : State.Local n s (s.locate n) :=
  .ite (s.modCar_local n _) (.ite (.refl s) (s.addEntry_local n _ _ _))

theorem State.reclaim_local (s : State) (n : CarName) : State.Local n s (s.reclaim n) :=
  (State.locate_local _ n).after ((State.setStep_local _ n _).after ((State.giveOrder_local _ n _).after (s.modCar_local n _)))

theorem State.cancelGranted_local (s : State) (n : CarName) : State.Local n s (s.cancelGranted n) :=
  (State.comeToRest_local _ n).after ((State.refuse_local _ n _).after (s.cancelWaiting_local n))

theorem State.leaveSet_local (s : State) (n : CarName) : State.Local n s (s.leaveSet n) := by
  have k := s.modCar_local n fun x => { x with member := none }
  unfold State.leaveSet
  split
  · dsimp only
    refine .ite k ?_
    split
    · exact k.trans (State.park_local _ n)
    · exact k.trans (State.park_local _ n)
    · exact k.trans ((State.park_local _ n).after (State.cancelGranted_local _ n))
    · exact k.trans (State.completeRun_local _ n _)
    · exact k.trans (State.completeRun_local _ n _)
    · exact k.trans (State.completeRun_local _ n _)
    · exact k.trans (State.reclaim_local _ n)
    · exact k
  · exact .refl s

theorem State.endFireRelease_local (s : State) (n : CarName) : State.Local n s (s.endFireRelease n) := by
  unfold State.endFireRelease
  split
  · exact .ite (.ite (s.modCar_local n _) (s.leaveSet_local n)) (.ite (s.leaveSet_local n) (.refl s))
  · exact .refl s

theorem State.planAtRest_local (s : State) (n : CarName) : State.Local n s (s.planAtRest n) := by
  unfold State.planAtRest
  split
  · exact .ite ((State.modCar_local _ n _).after (s.becomeDue_local n)) (s.planFrom_local n _)
  · exact .refl s

theorem State.atRestPlan_local (s : State) (n : CarName) (moved : Bool) : State.Local n s (s.atRestPlan n moved) := by
  unfold State.atRestPlan
  split
  · dsimp only
    refine .ite (.refl s) (.ite ?_ ?_)
    · split
      · exact s.reclaim_local n
      · exact s.reclaim_local n
      · exact (State.reclaim_local _ n).after (s.stopDwell_local n)
      · exact .ite (s.planAtRest_local n) (.refl s)
      · exact .refl s
    · split
      · exact .ite ((State.planAtRest_local _ n).after (s.stopDwell_local n)) (.refl s)
      · exact .ite (s.planAtRest_local n) (.refl s)
      · exact .refl s
  · exact .refl s

/-! ### Runs and reports -/

theorem State.writePlace_local (s : State) (n : CarName) (l : Option Landing) : State.Local n s (s.writePlace n l) := s.modCar_local n _

theorem State.parkOrReclaim_local (s : State) (n : CarName) (f : FollowUps) : State.Local n s (s.parkOrReclaim n f) := by
  have p : State.Local n s (((if (s.waitingOf n).isSome then s.cancelGranted n else s).modCar n fun x => { x with member := none }).park n) :=
    (State.park_local _ n).after ((State.modCar_local _ n _).after (.ite (s.cancelGranted_local n) (.refl s)))
  unfold State.parkOrReclaim
  split
  · exact .ite (.ite (.ite (s.completeRun_local n _) (.refl s)) (.ite (.ite p (.refl s)) (.ite (s.reclaim_local n) (.refl s)))) (.refl s)
  · exact .refl s

theorem State.rerequest_local (s : State) (n : CarName) (d : Option Landing) (o : Option Nat) : State.Local n s (s.rerequest n d o) := by
  unfold State.rerequest
  split
  · refine .ite (.refl s) ?_
    split
    · exact .ite (s.addEntry_local n _ _ _) (s.refuse_local n _)
    · exact s.refuse_local n _
  · exact .refl s

theorem State.applyFollowUps_local (s : State) (n : CarName) (x : PendingAction) (o : Option Nat) :
    State.Local n s (s.applyFollowUps n x o) := by
  have k := (State.parkOrReclaim_local _ n x.flags).after (s.modCar_local n fun c => { c with pending := none })
  exact .ite (k.trans (State.rerequest_local _ n _ _)) k

theorem State.endFollowUps_local (s : State) (n : CarName) (o : Nat) : State.Local n s (s.endFollowUps n o) := by
  unfold State.endFollowUps
  split
  · exact .ite (.refl s) (s.applyFollowUps_local n _ _)
  · exact .refl s

theorem State.endArrived_local (s : State) (n : CarName) (r : Run) (l : Landing) : State.Local n s (s.endArrived n r l) := by
  have k := (State.setMotion_local _ n .still).after ((State.writePlace_local _ n (some l)).after
    ((State.endUnpermitted_local _ n).after (s.dropRun_local n)))
  exact (State.endFollowUps_local _ n _).after (.ite (k.trans (State.arrivalEffect_local _ n)) k)

theorem State.endHalted_local (s : State) (n : CarName) (r : Run) (l : Option Landing) (c : HaltCause) :
    State.Local n s (s.endHalted n r l c) := by
  have a := (State.comeToRest_local _ n).after ((State.writePlace_local _ n l).after
    ((State.endUnpermitted_local _ n).after (s.dropRun_local n)))
  have b := State.Local.ite (p := r.haltCounts = true) (a.trans (State.countAttempt_local _ n)) a
  exact (State.endFollowUps_local _ n _).after
    (.ite (b.trans (State.recallFailed_local _ n _)) (b.trans (State.atRestPlan_local _ n _)))

theorem State.restWaiting_local (s : State) (n : CarName) (c : Car) : State.Local n s (s.restWaiting n c) := by
  unfold State.restWaiting
  split
  · exact .refl s
  · have k := fun m => (State.setMotion_local _ n m).after (s.takeOut_local n)
    exact .ite (.ite (.refl s) (.ite ((k _).trans (State.locate_local _ n)) ((k _).trans (State.refuse_local _ n _))))
      (.ite (.ite ((k _).trans (State.arrivalEffect_local _ n)) ((k _).trans (State.refuse_local _ n _))) (.refl s))

theorem State.restReport_local (s : State) (n : CarName) : State.Local n s (s.restReport n) := by
  unfold State.restReport
  split
  · split
    · exact s.comeToRest_local n
    · exact s.comeToRest_local n
    · exact s.restWaiting_local n _
    · exact s.restWaiting_local n _
    all_goals exact .refl s
  · exact .refl s

theorem State.lateReport_local (s : State) (n : CarName) (l : Option Landing) : State.Local n s (s.lateReport n l) := by
  have a := (State.endUnpermitted_local _ n).after (s.writePlace_local n l)
  have b := a.trans (State.restReport_local _ n)
  unfold State.lateReport
  dsimp only
  split
  · exact a
  · split
    · exact b
    · exact b.trans (State.atRestPlan_local _ n _)

theorem State.moveUnpermitted_local (s : State) (n : CarName) : State.Local n s (s.moveUnpermitted n) := by
  have k := s.dispose_local n
  exact (State.unpermittedMotion_local _ n).after (.ite k (k.trans (State.setMotion_local _ n _)))

theorem State.putOut_local (s : State) (n : CarName) (w : OutReason) : State.Local n s (s.putOut n w) :=
  (State.goOut_local _ n w).after ((State.abandonRun_local _ n).after (s.dispose_local n))

theorem State.watchMotion_local (s : State) (n : CarName) (c : Car) : State.Local n s (s.watchMotion n c) :=
  .ite (s.moveUnpermitted_local n) (.refl s)

theorem State.moveByReport_local (s : State) (n : CarName) : State.Local n s (s.moveByReport n) := by
  unfold State.moveByReport
  split
  · exact .ite ((State.watchMotion_local _ n _).after (s.putOut_local n _))
      (.ite (.refl s) (.ite (s.watchMotion_local n _) (s.restReport_local n)))
  · exact .refl s

theorem State.deriveMotion_local (s : State) (n : CarName) : State.Local n s (s.deriveMotion n) := by
  unfold State.deriveMotion
  split
  · split
    · exact .ite ((State.watchMotion_local _ n _).after (.ite (.refl s) (s.putOut_local n _)))
        (.ite ((State.moveByReport_local _ n).after (s.comeToRest_local n)) (s.watchMotion_local n _))
    · exact .ite ((State.watchMotion_local _ n _).after (s.putOut_local n _)) (s.moveByReport_local n)
  · exact .refl s

theorem State.abandonFollowUps_local (s : State) (n : CarName) : State.Local n s (s.abandonFollowUps n) := by
  unfold State.abandonFollowUps
  split
  · split
    · exact .ite (s.applyFollowUps_local n _ _) (.refl s)
    · exact .refl s
  · exact .refl s

theorem State.planArrival_local (s : State) (n : CarName) : State.Local n s (s.planArrival n) :=
  .ite (s.plan_local n) (.ite (s.modCar_local n _) (.refl s))

theorem State.poweringParked_local (s : State) (n : CarName) : State.Local n s (s.poweringParked n) :=
  .ite ((State.modCar_local _ n _).after (.ite (s.setStep_local n _) (s.park_local n))) (.refl s)

theorem State.creditByReport_local (s : State) (n : CarName) : State.Local n s (s.creditByReport n) := .ite (s.modCar_local n _) (.refl s)

theorem State.endIfAtRest_local (s : State) (n : CarName) : State.Local n s (s.endIfAtRest n) := .ite (.refl s) (s.endUnpermitted_local n)

theorem State.takeReport_local (s : State) (n : CarName) (old : Car) (new : Bool) (r : Report) :
    State.Local n s (s.takeReport n old new r) := by
  have x := s.modCar_local n fun c => c.accept r (s.phase = .normal) s.collecting
  have a := x.trans ((State.endIfAtRest_local _ n).after (State.deriveMotion_local _ n))
  have b := a.trans ((State.syncEntry_local _ n).after (State.abandonFollowUps_local _ n))
  unfold State.takeReport
  dsimp only
  have c := fun (p q : Prop) [Decidable p] [Decidable q] (m : Bool) =>
    (State.creditByReport_local _ n).after ((State.poweringParked_local _ n).after
      (State.Local.ite (p := p) (b.trans (State.planArrival_local _ n))
        (State.Local.ite (p := q) b (b.trans (State.atRestPlan_local _ n m)))))
  exact .ite ((c _ _ _).trans (State.endFireRelease_local _ n)) (c _ _ _)

/-! ### The commands that name a car -/

theorem State.askSelection_local (s : State) (n : CarName) : State.Local n s s.askSelection := .of_eq rfl rfl rfl rfl rfl rfl rfl rfl

theorem State.acceptRequest_local (s : State) (n : CarName) (c : Car) (l : Landing) : State.Local n s (s.acceptRequest n c l) :=
  (State.askSelection_local _ n).after (.ite (s.redirectRequest_local n l) (s.addEntry_local n _ _ _))

theorem State.acceptWithdraw_local (s : State) (n : CarName) : State.Local n s (s.acceptWithdraw n) :=
  .ite ((State.comeToRest_local _ n).after (s.removeEntry_local n))
    (.ite ((State.comeToRest_local _ n).after (s.cancelWaiting_local n)) (.refl s))

theorem State.takeStarted_local (s : State) (n : CarName) : State.Local n s (s.takeStarted n) := by
  unfold State.takeStarted
  split
  · split
    · exact s.modCar_local n _
    all_goals exact .refl s
  · exact .ite (s.moveUnpermitted_local n) (.refl s)

theorem State.takeHalted_local (s : State) (n : CarName) (l : Option Landing) (k : HaltCause) : State.Local n s (s.takeHalted n l k) := by
  unfold State.takeHalted
  split
  · exact s.endHalted_local n _ l k
  · exact s.lateReport_local n l

theorem State.takeArrived_local (s : State) (n : CarName) (l : Option Landing) : State.Local n s (s.takeArrived n l) := by
  unfold State.takeArrived
  split
  · exact s.takeHalted_local n none .other
  · split
    · exact s.endArrived_local n _ _
    · exact s.lateReport_local n _

theorem State.acceptRetry_local (s : State) (n : CarName) (c : Car) : State.Local n s (s.acceptRetry n c) := by
  have b : ∀ a : State, State.Local n s a → State.Local n s (if c.motion = .out .runTimeout then a.comeToRest n else a) :=
    fun a k => .ite (k.trans (a.comeToRest_local n)) k
  have d : ∀ a : State, State.Local n s a → State.Local n s (if c.step = .givenUp then (a.giveOrder n .stay).setStep n .awaiting else a) :=
    fun a k => .ite (k.trans ((State.setStep_local _ n _).after (a.giveOrder_local n _))) k
  have e : ∀ a : State, State.Local n s a → State.Local n s (if a.carIs n fun x => x.motion.isOut then a else a.planArrival n) :=
    fun a k => .ite k (k.trans (a.planArrival_local n))
  exact e _ (d _ (b _ (s.modCar_local n _)))

theorem State.startRunsOut_local (s : State) (n : CarName) (r : Run) : State.Local n s (s.startRunsOut n r) := by
  have k := (State.comeToRest_local _ n).after ((State.modCar_local _ n fun c => { c with run := none, credit := none, pending := none }).after
    (s.refund_local n r.permit))
  exact .ite ((State.recallFailed_local _ n _).after ((State.countAttempt_local _ n).after k)) (k.trans (State.refuse_local _ n _))

theorem State.runRunsOut_local (s : State) (n : CarName) (r : Run) : State.Local n s (s.runRunsOut n r) := by
  have k := (State.modCar_local _ n fun c => { c with run := some { r with state := .grace .runTimeout (s.inSeconds 10) } }).after
    (s.stopNow_local n)
  have a := k.trans (State.countAttempt_local _ n)
  exact .ite (.ite (a.trans (State.giveUp_local _ n _)) a) k

theorem State.graceRunsOut_local (s : State) (n : CarName) (r : Run) (c : GraceCause) : State.Local n s (s.graceRunsOut n r c) := by
  have k := s.dropRun_local n
  exact (State.goOut_local _ n _).after (.ite (k.trans (State.toPanel_local _ n _)) k)

theorem State.dwellEnds_local (s : State) (n : CarName) : State.Local n s (s.dwellEnds n) := (State.park_local _ n).after (s.modCar_local n _)

end Sys2Proof.Machine
end

