-- ==== Sys2Proof/Laws/Others.lean ====
section
/-! SUPPORT. What the effects outside State.Stays leave alone: SOURCE and the STAY step, which write contexts and notes; STATUS, which may
configure a record; ADMISSION; GRANT; TABLE_COMMIT. -/

namespace Sys2Proof.Machine

/-- t keeps the settings of s and everything s has sent, and nothing grows. -/
structure State.Modest (s t : State) : Prop where
  settings : t.settings = s.settings
  sent : s.outbox <+: t.outbox
  wanes : s.Wanes t

theorem State.Stays.modest {s t : State} (k : s.Stays t) : s.Modest t := ⟨k.settings, k.sent, k.wanes⟩

theorem State.Keeps.modest {s t : State} (k : s.Keeps t) : s.Modest t := k.stays.modest

theorem State.KeepsBut.modest {n : CarName} {s t : State} (k : State.KeepsBut n s t) : s.Modest t :=
  ⟨congrArg Control.settings k.control, k.sent, k.wanes⟩

theorem State.Modest.trans {s t u : State} (h : s.Modest t) (k : t.Modest u) : s.Modest u :=
  ⟨k.settings.trans h.settings, h.sent.trans k.sent, h.wanes.trans k.wanes⟩

theorem State.Modest.after {s t u : State} (k : t.Modest u) (h : s.Modest t) : s.Modest u := h.trans k

/-- Only fields outside the settings, the cars, the permits and the accounts differ. -/
theorem State.Modest.of_eq {s t : State} (c : t.settings = s.settings) (h : t.cars = s.cars) (o : t.outbox = s.outbox)
    (q : t.queue = s.queue) (d : t.slot = s.slot) (a : t.accounts = s.accounts) (v : t.serviceAccount = s.serviceAccount) :
    s.Modest t := (State.Stays.of_eq c h o q d a v).modest

theorem State.Modest.refl (s : State) : s.Modest s := (State.Keeps.refl s).modest

theorem State.Modest.ite {s t u : State} {p : Prop} [Decidable p] (h : s.Modest t) (k : s.Modest u) :
    s.Modest (if p then t else u) := by
  split
  · exact h
  · exact k

theorem State.Modest.foldl {α : Type} {f : State → α → State} (h : ∀ (a : State) x, a.Modest (f a x)) :
    ∀ (l : List α) (s : State), s.Modest (l.foldl f s)
  | [], s => .refl s
  | x :: l, s => (h s x).trans (State.Modest.foldl h l (f s x))

theorem State.Modest.forCars {f : CarName → State → State} (h : ∀ n (a : State), a.Modest (f n a)) (s : State) :
    s.Modest (s.forCars f) := State.Modest.foldl (fun a n => h n a) carNames s

/-- A change of a record that takes no new permit. -/
theorem State.modCar_modest (s : State) (n : CarName) (f : Car → Car) (r : ∀ c : Car, c.Sheds (f c)) : s.Modest (s.modCar n f) := by
  unfold State.modCar
  split
  · next c hc =>
    refine ⟨rfl, List.prefix_refl _, fun _ h => h, fun _ => Nat.le_refl _, Nat.le_refl _, fun m x hx => ?_⟩
    unfold State.runOf at hx ⊢
    rw [State.car_putCar] at hx
    split at hx
    · next e => subst e; rw [hc]; exact r c x hx
    · exact ⟨x, hx, rfl⟩
  · exact .refl s

/-! ### SOURCE -/

theorem State.capture_modest (s : State) : s.Modest s.capture :=
  State.Modest.forCars (fun n a => a.modCar_modest n (fun c => { c with saved := c.image }) fun _ => .same rfl) s

theorem State.clearStandby_modest (s : State) : s.Modest s.clearStandby := by
  refine ⟨rfl, List.prefix_refl _, .of_cars rfl (fun w hw => ?_) (fun g => ?_) (Nat.zero_le _)⟩
  · simp [State.waiting, State.clearStandby] at hw
  · simp [State.clearStandby]

theorem State.handBackGroup_modest (s : State) (g : GroupNo) : s.Modest (s.handBackGroup g) := by
  have a := (s.toGroup_keeps g (.phase .normal .noWindow)).modest
  unfold State.handBackGroup
  dsimp only
  generalize s.toGroup g (.phase .normal .noWindow) = t at a ⊢
  refine (a.trans (State.Modest.foldl (fun b n => ?_) _ t)).trans
    (State.Modest.foldl (fun b n => .ite (b.toGroup_keeps g _).modest (.refl b)) _ _)
  split
  · exact (b.toGroup_keeps g _).modest
  · exact .refl b

theorem State.sendCars_keeps (s : State) : s.Keeps s.sendCars := by
  unfold State.sendCars State.forCars
  refine State.Keeps.foldl (fun a n => ?_) _ _
  dsimp only
  split
  · exact a.toPanel_keeps _
  · exact .refl a

theorem State.enterNormal_modest (s : State) : s.Modest s.enterNormal := by
  have a := s.clearStandby_modest.trans (State.haltPacer_stays _).modest
  unfold State.enterNormal
  dsimp only
  generalize s.clearStandby.haltPacer = t at a ⊢
  have b := a.trans (State.Modest.foldl (fun a g => State.handBackGroup_modest a g) groupNos t)
  generalize (groupNos.foldl (fun acc g => State.handBackGroup acc g) t) = u at b ⊢
  have c := b.trans (State.Modest.forCars (fun n a => a.modCar_modest n Car.handBack fun _ => .none rfl) u)
  generalize (u.forCars fun n acc => acc.modCar n Car.handBack) = v at c ⊢
  exact (State.sendLoad_keeps _).modest.after ((State.sendCars_keeps _).modest.after ((State.refresh_keeps _).modest.after
    (c.trans (State.toPanel_keeps _ _).modest)))

theorem State.clearAtOnce_keeps (s : State) (k : TransKind) : s.Keeps (s.clearAtOnce k) := s.toPower_keeps _

theorem State.sourceAtRest_modest (s : State) (x : SourceState) (k : TransKind) : s.Modest (s.sourceAtRest x k) := by
  cases x with
  | normal => exact s.enterNormal_modest
  | lost => exact .ite (.refl s) s.enterOutage_stays.modest
  | standby => exact s.enterTakeover_stays.modest
  | preTransfer => exact (s.clearAtOnce_keeps k).modest
  | transferAbort => exact .refl s

theorem State.takeSource_modest (s : State) (x : SourceState) (k : TransKind) : s.Modest (s.takeSource x k) := by
  have standby : ∀ m, s.Modest (s.sourceInStandby m x k) := fun m => by
    cases x with
    | normal => exact s.enterNormal_modest
    | lost => exact s.enterOutage_stays.modest
    | standby => exact .refl s
    | preTransfer => exact (s.enterPreTransfer_stays m k).modest
    | transferAbort => exact .refl s
  unfold State.takeSource
  split
  · exact s.sourceAtRest_modest x k
  · exact s.sourceAtRest_modest x k
  · cases x with
    | normal => exact .refl s
    | lost => exact s.capture_modest.trans (State.enterOutage_stays _).modest
    | standby => exact s.capture_modest.trans (State.enterTakeover_stays _).modest
    | preTransfer => exact s.capture_modest.trans (State.enterPreTransfer_stays _ _ _).modest
    | transferAbort => exact .refl s
  · exact standby _
  · exact standby _
  · exact standby _
  · split
    · next h _ =>
      cases x with
      | normal => exact s.enterNormal_modest
      | lost => exact s.enterOutage_stays.modest
      | standby => exact .ite s.enterTakeover_stays.modest (.refl s)
      | preTransfer => exact .ite (.refl s) (.of_eq rfl rfl rfl rfl rfl rfl rfl)
      | transferAbort =>
        show s.Modest (s.abortTransfer h.remembered)
        unfold State.abortTransfer
        split
        · exact s.enterNormal_modest
        · exact s.enterTakeover_stays.modest
        · exact (s.returnToStandby_stays _).modest
        · exact (s.returnToStandby_stays _).modest
    · exact .refl s

/-! ### The STAY step -/

theorem State.stayCar_modest (s : State) (n : CarName) : s.Modest (s.stayCar n) := by
  have a : s.Modest ((s.giveOrder n .stay).modCar n fun c => { c with reported := false }) :=
    (State.modCar_modest _ n (fun c => { c with reported := false }) fun _ => .same rfl).after (s.giveOrder_keeps n _).modest
  exact .ite (a.trans (State.setStep_keeps _ n _).modest) a

theorem State.stayStep_modest (s : State) : s.Modest s.stayStep := by
  have a := State.Modest.forCars (fun n a => State.stayCar_modest a n) s
  unfold State.stayStep
  dsimp only
  generalize (s.forCars fun n acc => acc.stayCar n) = t at a ⊢
  have b := a.trans (State.Keeps.foldl (fun a g => State.toGroup_keeps a g .query) groupNos t).modest
  generalize (groupNos.foldl (fun acc g => State.toGroup acc g .query) t) = u at b ⊢
  exact b.trans (.of_eq rfl rfl rfl rfl rfl rfl rfl)

/-! ### STATUS -/

theorem State.configureRecord_car (s : State) (n m : CarName) :
    (s.configureRecord n).car m = if n = m then some Car.reset else s.car m := by
  unfold State.configureRecord State.car
  by_cases h : n = m
  · subst h; simp
  · have : n.val ≠ m.val := fun e => h (Fin.ext e)
    simp [h, this]

theorem State.joinRecovery_keeps (s : State) (n : CarName) : s.Keeps (s.joinRecovery n) :=
  .ite ((State.setStep_keeps _ n _).after (s.giveOrder_keeps n _)) (.refl s)

/-- A report configures a record only under the fallback table, and then an absent one (R21). -/
theorem State.configureOn_same {s : State} {n : CarName} (h : s.fallback = none ∨ s.configured n = true) : s.configureOn n = s := by
  unfold State.configureOn
  rcases h with h | h <;> simp [h]

theorem State.configureOn_wanes (s : State) (n : CarName) : s.Wanes (s.configureOn n) := by
  unfold State.configureOn
  split
  · refine State.Wanes.trans ?_ (State.joinRecovery_keeps _ n).wanes
    refine ⟨fun _ h => h, fun _ => Nat.le_refl _, Nat.le_refl _, fun m r hr => ?_⟩
    unfold State.runOf at hr ⊢
    rw [State.configureRecord_car] at hr
    split at hr
    · cases hr
    · exact ⟨r, hr, rfl⟩
  · exact .refl s

theorem State.configureOn_body (s : State) (n m : CarName) (h : m ≠ n) : (s.configureOn n).body m = s.body m := by
  unfold State.configureOn
  split
  · rw [(State.joinRecovery_keeps _ n).body]
    unfold State.body
    rw [State.configureRecord_car, if_neg fun e : n = m => h e.symm]
  · rfl

theorem State.takeStatus_wanes (s : State) (n : CarName) (r : Report) : s.Wanes (s.takeStatus n r) := by
  refine (s.configureOn_wanes n).trans ?_
  unfold State.takeStatus
  dsimp only
  split
  · exact (State.accept_keeps _ n r _ _).wanes.trans (State.takeReport_keeps _ n _ _ r).wanes
  · exact .refl _

theorem State.takeStatus_body (s : State) (n m : CarName) (r : Report) (h : m ≠ n) : (s.takeStatus n r).body m = s.body m := by
  refine Eq.trans ?_ (s.configureOn_body n m h)
  unfold State.takeStatus
  dsimp only
  split
  · exact ((State.takeReport_keeps _ n _ _ r).body m).trans ((State.accept_keeps _ n r _ _).body m h)
  · rfl

/-- The settings that a STATUS leaves alone. -/
theorem State.takeStatus_control (s : State) (n : CarName) (r : Report) :
    (s.takeStatus n r).control = (s.configureOn n).control := by
  unfold State.takeStatus
  dsimp only
  split
  · exact (State.takeReport_keeps _ n _ _ r).control.trans (State.accept_keeps _ n r _ _).control
  · rfl

theorem State.configureOn_control (s : State) (n : CarName) :
    (s.configureOn n).control = { s.control with
      table := (s.configureOn n).table, groupOrder := (s.configureOn n).groupOrder } := by
  unfold State.configureOn
  split
  · have k := (State.joinRecovery_keeps (s.configureRecord n) n).control
    have e : ((s.configureRecord n).joinRecovery n).table = (s.configureRecord n).table := congrArg Control.table k
    have f : ((s.configureRecord n).joinRecovery n).groupOrder = (s.configureRecord n).groupOrder := congrArg Control.groupOrder k
    rw [k, e, f]
    rfl
  · rfl

/-! ### ADMISSION -/

/-- An admission moves one permit of the queue into the field of its car (R108, R123); the settings and the reported data stay. -/
theorem State.admit_frame (s : State) (w : Waiting) :
    (s.startPermit w).settings = s.settings ∧ (∀ n, (s.startPermit w).body n = s.body n) ∧ s.outbox <+: (s.startPermit w).outbox ∧
    (∀ x ∈ (s.startPermit w).waiting, x ∈ s.waiting) ∧ (∀ g : GroupNo, (s.startPermit w).accounts[g] ≤ s.accounts[g]) ∧
    (s.startPermit w).serviceAccount ≤ s.serviceAccount ∧
    ∀ n r, (s.startPermit w).runOf n = some r → if w.car = n then r.permit = w.permit else
      ∃ r0, s.runOf n = some r0 ∧ r0.permit = r.permit := by
  have q : ∀ x ∈ ({ s with queue := s.queue.filter fun x => x.car ≠ w.car } : State).waiting, x ∈ s.waiting := fun x hx => by
    simp only [State.waiting, List.mem_append, List.mem_filter] at hx ⊢
    exact hx.imp (·.1) id
  let t : State := ({ s with queue := s.queue.filter fun x => x.car ≠ w.car } : State).modCar w.car fun c =>
    { c with run := some (s.newRun w), motion := .starting }
  have k : t.Stays (s.startPermit w) := by
    have a : t.Stays (t.sendStart w) := (State.toGroup_keeps _ _ _).stays
    have b : t.Stays (if w.permit.cls = .recall && (t.sendStart w).carIs w.car (fun c => c.step = .recallDue) then
        (t.sendStart w).setStep w.car .recalling else t.sendStart w) := .ite (a.trans (State.setStep_keeps _ _ _).stays) a
    have c := b.trans (State.startBlanking_stays _)
    exact (State.leaveOpen_stays _).after (c.trans (.of_eq rfl rfl rfl rfl rfl rfl rfl))
  have car : ∀ n, t.car n = if w.car = n then (s.car n).map (fun c => { c with run := some (s.newRun w), motion := .starting }) else
      s.car n := fun n => State.car_modCar _ _ _ _
  have b : ∀ n, t.body n = s.body n := fun n => by
    unfold State.body
    rw [car]
    split
    · cases s.car n <;> rfl
    · rfl
  have fields : t.settings = s.settings ∧ t.outbox = s.outbox ∧ t.waiting = ({ s with queue := s.queue.filter fun x => x.car ≠ w.car } : State).waiting ∧
      t.accounts = s.accounts ∧ t.serviceAccount = s.serviceAccount := by
    show _ ∧ _ ∧ _
    simp only [t, State.modCar]
    split <;> exact ⟨rfl, rfl, rfl, rfl, rfl⟩
  obtain ⟨f1, f2, f3, f4, f5⟩ := fields
  refine ⟨k.settings.trans f1, fun n => (k.body n).trans (b n), f2 ▸ k.sent, fun x hx => q x (f3 ▸ k.wanes.waits x hx),
    fun g => ?_, f5 ▸ k.wanes.service, fun n r hr => ?_⟩
  · have := k.wanes.accounts g
    rwa [f4] at this
  · obtain ⟨r0, h0, e⟩ := k.wanes.runs n r hr
    unfold State.runOf at h0
    rw [car] at h0
    split
    · next p =>
      rw [if_pos p] at h0
      cases hc : s.car n with
      | none => rw [hc] at h0; cases h0
      | some c =>
        rw [hc] at h0
        have : s.newRun w = r0 := Option.some.inj h0
        rw [← e, ← this]
        rfl
    · next p =>
      rw [if_neg p] at h0
      exact ⟨r0, h0, e⟩

/-! ### GRANT -/

theorem State.defer_keeps (s : State) (c : RunClass) : s.Keeps (s.defer c) := by
  unfold State.defer
  split
  · next w rest h h' =>
    refine .ite ⟨rfl, fun _ => rfl, List.prefix_refl _, .of_cars rfl (fun x hx => ?_) (fun _ => Nat.le_refl _) (Nat.le_refl _)⟩ (.refl s)
    simp only [State.waiting, Option.toList_some, List.mem_append, List.mem_singleton] at hx
    simp only [State.waiting, h, h', Option.toList_none, List.append_nil, List.mem_cons]
    exact hx.symm
  · exact .refl s

/-- What a grant writes before the deferral (R93). -/
def State.granted (s : State) (e : Entry) (f : Figures) : State :=
  { s.removeEntry e.car with
    accounts := s.accounts.set (groupOf e.car) (s.accounts[groupOf e.car] + (s.permitFor e f).groupCharge),
    serviceAccount := s.serviceAccount + (s.permitFor e f).serviceCharge,
    groupOrder := moveToEnd (groupOf e.car) s.groupOrder,
    queue := s.queue ++ [({ car := e.car, permit := s.permitFor e f } : Waiting)],
    grants := s.grants + 1 }

/-- From what a grant writes on, the frame is kept (R93, R101). -/
theorem State.grantWith_keeps (s : State) (e : Entry) (f : Figures) : (s.granted e f).Keeps (s.grantWith e f) :=
  (State.defer_keeps _ _).after (State.setMotion_keeps (s.granted e f) e.car .granted)

theorem State.removeEntry_fields (s : State) (n : CarName) :
    (s.removeEntry n).cars = s.cars ∧ (s.removeEntry n).slot = s.slot ∧ (s.removeEntry n).outbox = s.outbox := by
  unfold State.removeEntry
  split <;> exact ⟨rfl, rfl, rfl⟩

/-- A grant adds one permit at most, and touches neither reported data nor runs. -/
theorem State.grantEntry_frame (s : State) (e : Entry) :
    (∀ n, (s.grantEntry e).body n = s.body n) ∧ s.outbox <+: (s.grantEntry e).outbox ∧
    (∃ l : List Waiting, l.length ≤ 1 ∧ ∀ x ∈ (s.grantEntry e).waiting, x ∈ s.waiting ∨ x ∈ l) ∧
    (∀ n r, (s.grantEntry e).runOf n = some r → ∃ r0, s.runOf n = some r0 ∧ r0.permit = r.permit) ∧
    (s.grantEntry e).control = { s.control with
      grants := (s.grantEntry e).grants, groupOrder := (s.grantEntry e).groupOrder } := by
  unfold State.grantEntry
  split
  · next f _ =>
    obtain ⟨c, d, o⟩ := s.removeEntry_fields e.car
    have k := s.grantWith_keeps e f
    refine ⟨fun n => (k.body n).trans (State.body_congr (s := s) (t := s.granted e f) c n), ?_, ⟨[⟨e.car, s.permitFor e f⟩], Nat.le_refl _, fun x hx => ?_⟩, fun n r hr => ?_, ?_⟩
    · have := k.sent
      rwa [show (s.granted e f).outbox = s.outbox from o] at this
    · have := k.wanes.waits x hx
      simp only [State.waiting, State.granted, d, List.mem_append, List.mem_singleton] at this ⊢
      tauto
    · obtain ⟨r0, h0, q⟩ := k.wanes.runs n r hr
      rw [State.runOf_congr (s := s) (t := s.granted e f) c] at h0
      exact ⟨r0, h0, q⟩
    · have g : (s.granted e f).control = { s.control with
          grants := (s.granted e f).grants, groupOrder := (s.granted e f).groupOrder } := by
        unfold State.granted State.removeEntry State.control
        split <;> rfl
      have a : (s.grantWith e f).grants = (s.granted e f).grants := congrArg Control.grants k.control
      have b : (s.grantWith e f).groupOrder = (s.granted e f).groupOrder := congrArg Control.groupOrder k.control
      rw [k.control, g, a, b]
  · exact ⟨fun _ => rfl, List.prefix_refl _, ⟨[], Nat.zero_le _, fun x hx => .inl hx⟩, fun n r hr => ⟨r, hr, rfl⟩, rfl⟩

/-- The frame of an operation that may grant once. -/
structure State.Grants (s t : State) : Prop where
  body : ∀ n, t.body n = s.body n
  sent : s.outbox <+: t.outbox
  waits : ∃ l : List Waiting, l.length ≤ 1 ∧ ∀ x ∈ t.waiting, x ∈ s.waiting ∨ x ∈ l
  runs : ∀ n r, t.runOf n = some r → ∃ r0, s.runOf n = some r0 ∧ r0.permit = r.permit
  control : t.control = { s.control with grants := t.grants, groupOrder := t.groupOrder }

theorem State.Keeps.grants {s t : State} (k : s.Keeps t) : s.Grants t :=
  ⟨k.body, k.sent, ⟨[], Nat.zero_le _, fun x hx => .inl (k.wanes.waits x hx)⟩, k.wanes.runs, by
    have a : t.grants = s.grants := congrArg Control.grants k.control
    have b : t.groupOrder = s.groupOrder := congrArg Control.groupOrder k.control
    rw [k.control, a, b]; rfl⟩

theorem State.Grants.upon {s t u : State} (k : t.Grants u) (h : s.Keeps t) : s.Grants u := by
  refine ⟨fun n => (k.body n).trans (h.body n), h.sent.trans k.sent, ?_, fun n r hr => ?_, ?_⟩
  · obtain ⟨l, hl, m⟩ := k.waits
    exact ⟨l, hl, fun x hx => (m x hx).imp (h.wanes.waits x) id⟩
  · obtain ⟨x, hx, e⟩ := k.runs n r hr
    obtain ⟨y, hy, e'⟩ := h.wanes.runs n x hx
    exact ⟨y, hy, e'.trans e⟩
  · rw [k.control, h.control]

theorem State.Grants.then {s t u : State} (h : s.Grants t) (k : t.Keeps u) : s.Grants u := by
  refine ⟨fun n => (k.body n).trans (h.body n), h.sent.trans k.sent, ?_, fun n r hr => ?_, ?_⟩
  · obtain ⟨l, hl, m⟩ := h.waits
    exact ⟨l, hl, fun x hx => m x (k.wanes.waits x hx)⟩
  · obtain ⟨x, hx, e⟩ := k.wanes.runs n r hr
    obtain ⟨y, hy, e'⟩ := h.runs n x hx
    exact ⟨y, hy, e'.trans e⟩
  · have a : u.grants = t.grants := congrArg Control.grants k.control
    have b : u.groupOrder = t.groupOrder := congrArg Control.groupOrder k.control
    rw [k.control, h.control, a, b]

theorem State.grantEntry_grants (s : State) (e : Entry) : s.Grants (s.grantEntry e) :=
  let ⟨a, b, c, d, f⟩ := s.grantEntry_frame e
  ⟨a, b, c, d, f⟩

theorem State.selectOrdinary_grants (s : State) : s.Grants s.selectOrdinary := by
  have a : s.Keeps (if s.window = .recallWindow then s.preemptFor s.table.site.preemption (s.ranking .recall).head? else s) :=
    .ite (s.preemptFor_keeps _ _) (.refl s)
  unfold State.selectOrdinary
  dsimp only
  generalize (if s.window = .recallWindow then s.preemptFor s.table.site.preemption (s.ranking .recall).head? else s) = t at a ⊢
  have b := a.trans ((State.placeMark_keeps _ s.leading).after t.reviewMark_keeps)
  generalize t.reviewMark.placeMark s.leading = u at b ⊢
  split
  · exact (State.grantEntry_grants _ _).upon (b.trans u.settleMark_keeps)
  · exact (State.settleMark_keeps u).grants.upon b

theorem State.judge_grants (s : State) : s.Grants s.judge := by
  unfold State.judge
  split
  · exact (State.grantEntry_grants _ _).upon ((State.settleMark_keeps _).after s.reviewMark_keeps)
  · exact s.selectOrdinary_grants

/-- One selection grants one permit or none (R88, R90, R93). -/
theorem State.select_grants (s : State) : s.Grants s.select := by
  unfold State.select
  split
  · exact ((State.judge_grants _).then (s.returnEntries_keeps _)).upon (s.preemptFor_keeps _ _)
  · exact (State.Keeps.refl s).grants

/-! ### TABLE_COMMIT -/

/-- A commit that is not accepted only answers (R163, R164). -/
theorem State.takeCommit_cases (s : State) (v : Byte) :
    s.Keeps (s.takeCommit v) ∨ s.tableOpen = true ∧ v = 0#8 ∧ s.pendingImage.firstFailure = none ∧
      (s.commit s.pendingImage).Keeps (s.takeCommit v) := by
  unfold State.takeCommit
  split
  · exact .inl (s.toPort_keeps _)
  · next o =>
    split
    · exact .inl (s.toPort_keeps _)
    · next z =>
      split
      · exact .inl (s.toPort_keeps _)
      · next f => exact .inr ⟨by simpa using o, by simpa using z, f, State.toPort_keeps _ _⟩

theorem State.commit_wanes (s : State) (img : Image) : s.Wanes (s.commit img) := by
  have q : (s.commit img).queue = s.queue := by simp only [State.commit]
  have d : (s.commit img).slot = s.slot := by simp only [State.commit]
  have a : (s.commit img).accounts = s.accounts := by simp only [State.commit]
  have v : (s.commit img).serviceAccount = s.serviceAccount := by simp only [State.commit]
  refine ⟨fun x hx => ?_, fun g => ?_, Nat.le_of_eq v, fun n r hr => ?_⟩
  · rw [State.waiting_congr q d] at hx; exact hx
  · rw [a]
  have e : (s.commit img).car n = commitCar img n (s.car n) := by
    simp only [State.car, State.commit, Fin.getElem_fin, Vector.getElem_ofFn, Fin.eta]
  unfold State.runOf at hr ⊢
  rw [e] at hr
  unfold commitCar at hr
  split at hr
  · cases hc : s.car n with
    | none => rw [hc] at hr; cases hr
    | some c => rw [hc] at hr; exact ⟨r, hr, rfl⟩
  · cases hr

end Sys2Proof.Machine
end

