-- ==== Sys2Proof/Laws/PerInstr.lean ====
section
/-! SUPPORT. A statement about every command as syntax, command by command: what its message looks like on its port. -/

namespace Sys2Proof.Laws.Carried

/-- A well-formed message is of a type and length that its port takes inward, its payload is as long as a frame allows, and its port reads
the same message back from that payload (R158, sections 12.3 to 12.6). A command that is no message has nothing to carry. -/
def Statement (i : Instr) : Prop :=
  ∀ p type payload, encodeMessage i = some (p, type, payload) → i.wellFormed = true →
    Machine.accepts p type payload = true ∧ 1 ≤ payload.length ∧ payload.length ≤ 60 ∧ decodeMessage p type payload = some i

/-- A command that is no message. -/
theorem of_none {i : Instr} (h : encodeMessage i = none) : Statement i := fun p type payload k => by rw [h] at k; cases k

/-- The two bytes of a figure make the figure. -/
theorem wordOf_bytes (w : BitVec 16) : Machine.wordOf (Machine.highByte w) (Machine.lowByte w) = w := by
  unfold Machine.wordOf Machine.highByte Machine.lowByte
  apply BitVec.eq_of_getElem_eq
  intro i h
  rw [BitVec.getElem_append]
  split
  · simp [BitVec.getLsbD_eq_getElem h]
  · next k => simp [Nat.add_sub_cancel' (Nat.not_lt.mp k), BitVec.getLsbD_eq_getElem h]

theorem deviceReset : Statement .deviceReset := of_none rfl

theorem status (g : GroupNo) (r : StatusBytes) : Statement (.status g r) := by
  rintro p type payload h -
  cases h
  exact ⟨rfl, by simp, by simp, rfl⟩

theorem request (g : GroupNo) (car dest : Byte) : Statement (.request g car dest) := by
  rintro p type payload h -
  cases h
  exact ⟨rfl, by simp, by simp, rfl⟩

theorem withdraw (g : GroupNo) (car : Byte) : Statement (.withdraw g car) := by
  rintro p type payload h -
  cases h
  exact ⟨rfl, by simp, by simp, rfl⟩

theorem started (g : GroupNo) (car : Byte) : Statement (.started g car) := by
  rintro p type payload h -
  cases h
  exact ⟨rfl, by simp, by simp, rfl⟩

theorem arrived (g : GroupNo) (car landing : Byte) : Statement (.arrived g car landing) := by
  rintro p type payload h -
  cases h
  exact ⟨rfl, by simp, by simp, rfl⟩

theorem halted (g : GroupNo) (car landing cause : Byte) : Statement (.halted g car landing cause) := by
  rintro p type payload h -
  cases h
  exact ⟨rfl, by simp, by simp, rfl⟩

theorem source (state kind : Byte) : Statement (.source state kind) := by
  rintro p type payload h -
  cases h
  exact ⟨rfl, by simp, by simp, rfl⟩

theorem capacity (offered absorb : BitVec 16) : Statement (.capacity offered absorb) := by
  rintro p type payload h -
  cases h
  exact ⟨rfl, by simp, by simp, by simp [decodeMessage, decodePower, wordOf_bytes]⟩

theorem profile (q : ProfileBytes) : Statement (.profile q) := by
  rintro p type payload h -
  cases h
  exact ⟨rfl, by simp, by simp, rfl⟩

theorem select (group selection : Byte) : Statement (.select group selection) := by
  rintro p type payload h -
  cases h
  exact ⟨rfl, by simp, by simp, rfl⟩

theorem block (group landing : Byte) : Statement (.block group landing) := by
  rintro p type payload h -
  cases h
  exact ⟨rfl, by simp, by simp, rfl⟩

theorem unblock (group landing : Byte) : Statement (.unblock group landing) := by
  rintro p type payload h -
  cases h
  exact ⟨rfl, by simp, by simp, rfl⟩

theorem restart (number : Byte) : Statement (.restart number) := by
  rintro p type payload h -
  cases h
  exact ⟨rfl, by simp, by simp, rfl⟩

theorem retry (car : Byte) : Statement (.retry car) := by
  rintro p type payload h -
  cases h
  exact ⟨rfl, by simp, by simp, rfl⟩

theorem tableWrite (sectionNo : Byte) (values : List Byte) : Statement (.tableWrite sectionNo values) := by
  intro p type payload h w
  cases h
  simp only [Instr.wellFormed, Bool.or_eq_true, beq_iff_eq] at w
  refine ⟨?_, by simp, by simp; omega, ?_⟩
  · simp [Machine.accepts, Machine.acceptedLengths]; omega
  · simp [decodeMessage, decodeMaintenance]; omega

theorem tableCommit (value : Byte) : Statement (.tableCommit value) := by
  rintro p type payload h -
  cases h
  exact ⟨rfl, by simp, by simp, rfl⟩

theorem tableRead (sectionNo from_ : Byte) : Statement (.tableRead sectionNo from_) := by
  rintro p type payload h -
  cases h
  exact ⟨rfl, by simp, by simp, rfl⟩

theorem droppedFrame (port : Port) (bytes : List Byte) : Statement (.droppedFrame port bytes) := of_none rfl

theorem silenceTimerExpiry (l : LinkId) : Statement (.silenceTimerExpiry l) := of_none rfl

theorem strainAsserted : Statement .strainAsserted := of_none rfl

theorem strainReleased : Statement .strainReleased := of_none rfl

theorem tripAsserted : Statement .tripAsserted := of_none rfl

theorem tripReleased : Statement .tripReleased := of_none rfl

theorem filterTimerExpiry : Statement .filterTimerExpiry := of_none rfl

theorem blankingTimerExpiry : Statement .blankingTimerExpiry := of_none rfl

theorem standbySettleExpiry : Statement .standbySettleExpiry := of_none rfl

theorem collectionTimerExpiry : Statement .collectionTimerExpiry := of_none rfl

theorem preTransferTimerExpiry : Statement .preTransferTimerExpiry := of_none rfl

theorem clear : Statement .clear := of_none rfl

theorem accountTick : Statement .accountTick := of_none rfl

theorem windowTimerExpiry : Statement .windowTimerExpiry := of_none rfl

theorem settleAExpiry : Statement .settleAExpiry := of_none rfl

theorem openAExpiry : Statement .openAExpiry := of_none rfl

theorem settleBExpiry : Statement .settleBExpiry := of_none rfl

theorem openBExpiry : Statement .openBExpiry := of_none rfl

theorem admission : Statement .admission := of_none rfl

theorem grant : Statement .grant := of_none rfl

theorem startTimerExpiry (n : CarName) : Statement (.startTimerExpiry n) := of_none rfl

theorem runTimerExpiry (n : CarName) : Statement (.runTimerExpiry n) := of_none rfl

theorem graceTimerExpiry (n : CarName) : Statement (.graceTimerExpiry n) := of_none rfl

theorem dwellTimerExpiry (n : CarName) : Statement (.dwellTimerExpiry n) := of_none rfl

end Sys2Proof.Laws.Carried
end

