-- ==== Sys2Proof/Laws/Recall.lean ====
section
/-! SUPPORT. When the recall ends: State.endRecall and its condition in the words of R146. -/

namespace Sys2Proof.Machine

/-- The recall is complete where no configured car holds it open (R146). -/
theorem State.recallComplete_iff (s : State) : s.recallComplete = true ↔ s.RecallMet := by
  simp only [State.recallComplete, carNames, List.all_eq_true, List.mem_finRange, forall_true_left, State.RecallMet, Car.meetsRecall]
  refine forall_congr' fun n => ?_
  cases h : s.car n with
  | none => simp
  | some c => simp [or_assoc, or_comm, or_left_comm]

/-- Whether it is complete depends on steps and on who is OUT alone. -/
theorem State.recallMet_congr {s t : State} (h : ∀ n, t.recallView n = s.recallView n) : t.RecallMet ↔ s.RecallMet := by
  refine forall_congr' fun n => ?_
  have k := h n
  unfold State.recallView at k
  cases hs : s.car n <;> cases ht : t.car n <;> simp_all [Car.meetsRecall]

/-- What the end of recall can do: the change to SERVICE where the recall is complete; else nothing, and then in RECALL the recall is not
complete, or the event has changed nothing of it (R146). -/
theorem State.endRecall_cases (s0 s : State) :
    s.phase = .recall ∧ s.RecallMet ∧ s0.endRecall s = s.enterService ∨
    s0.endRecall s = s ∧ (s.phase = .recall → ¬ s.RecallMet ∨ s0.phase = .recall ∧ (s.RecallMet ↔ s0.RecallMet)) := by
  unfold State.endRecall
  split
  · rename_i h
    simp only [Bool.and_eq_true, decide_eq_true_eq] at h
    exact .inl ⟨h.1.1, s.recallComplete_iff.mp h.2, rfl⟩
  · rename_i h
    refine .inr ⟨rfl, fun p => ?_⟩
    by_cases m : s.RecallMet
    · simp only [p, s.recallComplete_iff.mpr m, decide_true, Bool.true_and, Bool.and_true, Bool.or_eq_true, decide_eq_true_eq, not_or,
        List.any_eq_true, not_exists, not_and, carNames, List.mem_finRange, forall_true_left, ne_eq, Classical.not_not] at h
      exact .inr ⟨h.1, State.recallMet_congr h.2⟩
    · exact .inl m

/-- An event that begins with the recall open, or outside RECALL, leaves the phase RECALL only with the recall open (R146). -/
theorem State.endRecall_open {s0 s : State} (h : s0.phase = .recall → ¬ s0.RecallMet) (p : (s0.endRecall s).phase = .recall) :
    s0.endRecall s = s ∧ ¬ s.RecallMet := by
  rcases s0.endRecall_cases s with ⟨-, -, e⟩ | ⟨e, k⟩
  · have k := congrArg Control.phase (State.phaseNotice_keeps { s with
      phase := .service, window := .recallWindow, windowTimer := some (s.inSeconds s.table.site.recallLength) }).control
    exact absurd ((congrArg State.phase e).symm.trans p) (by rw [show s.enterService.phase = .service from k]; decide)
  · rw [e] at p
    exact ⟨e, fun m => (k p).elim (· m) fun ⟨q, i⟩ => h q (i.mp m)⟩

end Sys2Proof.Machine
end

