-- ==== Sys2Proof/Laws/Spares.lean ====
section
/-! SUPPORT. How a frame of a whole event comes together: what the command's own effect leaves alone (State.Local), what the end of an event
does after it (State.Ends), and what its onset does before it. -/

namespace Sys2Proof.Machine

theorem State.entriesOf_congr {s t : State} (h : t.requests = s.requests) (n : CarName) : t.entriesOf n = s.entriesOf n := by
  unfold State.entriesOf; rw [h]

/-- The entries of another car, where only those of one car may differ. -/
theorem State.Local.entriesOf {n m : CarName} {s t : State} (k : State.Local n s t) (h : m ≠ n) : t.entriesOf m = s.entriesOf m := by
  have e := congrArg (List.filter fun e => e.car = m) (k.entries (groupOf m))
  simp only [List.filter_filter] at e
  have p : ∀ l : List Entry, l.filter (fun e => (decide (e.car = m) && decide (e.car ≠ n))) = l.filter fun e => e.car = m := fun l =>
    List.filter_congr fun x _ => by by_cases q : x.car = m <;> simp [q, h]
  rw [p, p] at e
  exact e

theorem State.Local.mem_waiting {n : CarName} {s t : State} (k : State.Local n s t) {w : Waiting} (h : w.car ≠ n) :
    w ∈ t.waiting ↔ w ∈ s.waiting := by
  have e := k.waits
  have p : ∀ l : List Waiting, w ∈ l.filter (fun w => w.car ≠ n) ↔ w ∈ l := fun l => by simp [h]
  rw [← p t.waiting, ← p s.waiting, e]

theorem State.stage_of_control {s t : State} (h : t.control = s.control) : t.stage = s.stage :=
  congrArg (fun c : Control => (c.phase, c.window, c.windowTimer)) h

theorem State.Ends.now {s t : State} (k : s.Ends t) : t.now = s.now := congrArg Control.now k.lasting

theorem State.Ends.table {s t : State} (k : s.Ends t) : t.table = s.table := congrArg Control.table k.lasting

/-- The frame of an event whose own effect is for one car. -/
theorem State.Local.spares {n : CarName} {s u t : State} (l : State.Local n s u) (w : s.Wanes u) (k : u.Ends t) : s.Spares t (some n) where
  stage := by
    rcases k.stage with e | ⟨p, e⟩
    · exact .inl (e.trans (State.stage_of_control l.control))
    · refine .inr ⟨(congrArg Control.phase l.control).symm.trans p, ?_⟩
      rw [k.now, k.table]; exact e
  body m h := (k.body m).trans (by unfold State.body; rw [l.cars m fun e => h (by rw [e])])
  held m h := (k.held m).trans (by rw [l.cars m fun e => h (by rw [e])])
  calm m h hs hi := by
    have ne : m ≠ n := fun e => h (by rw [e])
    have c := l.cars m ne
    refine (k.calm m (fun x hx => hs x (c ▸ hx)) ⟨?_, fun w hw e => ?_⟩).trans c
    · unfold State.runOf; rw [c]; exact hi.1
    · exact hi.2 w ((l.mem_waiting (e ▸ ne)).1 hw) e
  entries m h := (State.entriesOf_congr k.requests m).trans (l.entriesOf fun e => h (by rw [e]))
  mark h := k.mark.trans (l.mark (by rcases h with h | h <;> simp_all))
  waits w hw h := (l.mem_waiting fun e => h (by rw [e])).1 (k.waits w hw)
  firm m h hf w hw e := by
    have ne : m ≠ n := fun e => h (by rw [e])
    refine k.firm m (fun x hx ex => hf x ((l.mem_waiting (ex ▸ ne)).1 hx) ex) w ((l.mem_waiting (e ▸ ne)).2 hw) e
  accounts g := Nat.le_trans (k.accounts g) (w.accounts g)
  service := Nat.le_trans k.service w.service

/-- The frame of an event whose own effect is for no car. -/
theorem State.Ends.spares {s u t : State} (k : u.Ends t) (c : u.cars = s.cars) (r : u.requests = s.requests) (m : u.mark = s.mark)
    (q : u.queue = s.queue) (d : u.slot = s.slot) (a : ∀ g : GroupNo, u.accounts[g] ≤ s.accounts[g]) (v : u.serviceAccount ≤ s.serviceAccount)
    (st : u.stage = s.stage) : s.Spares t none where
  stage := by
    rcases k.stage with e | ⟨p, e⟩
    · exact .inl (e.trans st)
    · refine .inr ⟨(congrArg Prod.fst st).symm.trans p, ?_⟩
      rw [k.now, k.table]; exact e
  body n _ := (k.body n).trans (State.body_congr c n)
  held n _ := (k.held n).trans (by rw [State.car_congr c])
  calm n _ hs hi := by
    have e := State.car_congr c n
    refine (k.calm n (fun x hx => hs x (e ▸ hx)) ⟨?_, fun w hw => ?_⟩).trans e
    · rw [State.runOf_congr c]; exact hi.1
    · rw [State.waiting_congr q d] at hw; exact hi.2 w hw
  entries n _ := (State.entriesOf_congr k.requests n).trans (State.entriesOf_congr r n)
  mark _ := k.mark.trans m
  waits w hw _ := State.waiting_congr q d ▸ k.waits w hw
  firm n _ hf w hw e := by
    have p := State.waiting_congr q d
    exact k.firm n (fun x hx => hf x (p ▸ hx)) w (p.symm ▸ hw) e
  accounts g := Nat.le_trans (k.accounts g) (a g)
  service := Nat.le_trans k.service v

/-- The same where the effect may also do what the end of an event does to runs and waiting permits. -/
theorem State.Spares.refl_of_same {s a t : State} {who : Option CarName} (k : a.Spares t who) (c : a.cars = s.cars)
    (r : a.requests = s.requests) (m : a.mark = s.mark) (q : a.queue = s.queue) (d : a.slot = s.slot) (x : a.accounts = s.accounts)
    (v : a.serviceAccount = s.serviceAccount) (st : a.stage = s.stage) : s.Spares t who where
  stage := by
    rcases k.stage with e | ⟨p, e⟩
    · exact .inl (e.trans st)
    · exact .inr ⟨(congrArg Prod.fst st).symm.trans p, e⟩
  body n h := (k.body n h).trans (State.body_congr c n)
  held n h := (k.held n h).trans (by rw [State.car_congr c])
  calm n h hs hi := by
    have e := State.car_congr c n
    refine (k.calm n h (fun x hx => hs x (e ▸ hx)) ⟨?_, fun w hw => ?_⟩).trans e
    · rw [State.runOf_congr c]; exact hi.1
    · rw [State.waiting_congr q d] at hw; exact hi.2 w hw
  entries n h := (k.entries n h).trans (State.entriesOf_congr r n)
  mark h := by rw [← m] at h ⊢; exact k.mark h
  waits w hw h := State.waiting_congr q d ▸ k.waits w hw h
  firm n h hf w hw e := by
    have p := State.waiting_congr q d
    exact k.firm n h (fun x hx => hf x (p ▸ hx)) w (p.symm ▸ hw) e
  accounts g := by have := k.accounts g; rwa [x] at this
  service := by have := k.service; rwa [v] at this

theorem State.onset_stage (s : State) (i : Instr) : (s.onset i).stage = s.stage := by simp [State.stage]

theorem State.Spares.of_onset {s t : State} {i : Instr} {who : Option CarName} (k : (s.onset i).Spares t who) : s.Spares t who :=
  k.refl_of_same (by simp) (by simp) (by simp) (by simp) (by simp) (by simp) (by simp) (s.onset_stage i)

/-- The control state after a good frame, but for what the return of the power link may clear. -/
theorem State.heard_control (s : State) (l : LinkId) (h : l ≠ .power ∨ s.powerLink.up = true ∨ s.handshake = none) :
    (s.begin.goodFrame l).control = s.control.heard l := by
  obtain ⟨o, d, e⟩ := s.begin.goodFrame_sends l h
  rw [e]; cases l <;> rfl

/-- The control state after any good frame of the power link. -/
theorem State.heard_power (s : State) :
    (s.begin.goodFrame .power).control = { s.control.heard .power with
      handshake := (s.begin.goodFrame .power).handshake, preTimer := (s.begin.goodFrame .power).preTimer } := by
  obtain ⟨h, p, o, d, e⟩ := s.begin.goodFrame_shape .power
  rw [e]; rfl

/-! ### Effects that leave every car at rest alone -/

/-- t differs from s, but for what was sent, the figures, the episode mark and the control state, only in the motion and the pending
record of cars that run, and in accounts that have fallen. -/
structure State.Calms (s t : State) : Prop where
  stage : t.stage = s.stage
  body : ∀ n, t.body n = s.body n
  held : ∀ n, (t.car n).map Car.held = (s.car n).map Car.held
  calm : ∀ n, s.Idle n → t.car n = s.car n
  requests : t.requests = s.requests
  mark : t.mark = s.mark
  waiting : t.waiting = s.waiting
  accounts : ∀ g : GroupNo, t.accounts[g] ≤ s.accounts[g]
  service : t.serviceAccount ≤ s.serviceAccount

namespace State.Calms

variable {s t u : State}

theorem refl (s : State) : s.Calms s :=
  ⟨rfl, fun _ => rfl, fun _ => rfl, fun _ _ => rfl, rfl, rfl, rfl, fun _ => Nat.le_refl _, Nat.le_refl _⟩

theorem runOf (k : s.Calms t) (n : CarName) : (t.runOf n = none) ↔ (s.runOf n = none) := by
  have h := k.held n
  unfold State.runOf
  cases a : t.car n <;> cases b : s.car n <;> simp [a, b] at h ⊢
  simp only [Car.held, Held.mk.injEq] at h
  rw [h.1]

theorem idle (k : s.Calms t) {n : CarName} (h : s.Idle n) : t.Idle n := ⟨(k.runOf n).2 h.1, k.waiting ▸ h.2⟩

theorem trans (h : s.Calms t) (k : t.Calms u) : s.Calms u where
  stage := k.stage.trans h.stage
  body n := (k.body n).trans (h.body n)
  held n := (k.held n).trans (h.held n)
  calm n hn := (k.calm n (h.idle hn)).trans (h.calm n hn)
  requests := k.requests.trans h.requests
  mark := k.mark.trans h.mark
  waiting := k.waiting.trans h.waiting
  accounts g := Nat.le_trans (k.accounts g) (h.accounts g)
  service := Nat.le_trans k.service h.service

theorem after (k : t.Calms u) (h : s.Calms t) : s.Calms u := h.trans k

theorem ite {p : Prop} [Decidable p] (h : s.Calms t) (k : s.Calms u) : s.Calms (if p then t else u) := by
  split
  · exact h
  · exact k

theorem foldl {α : Type} {f : State → α → State} (h : ∀ (a : State) x, a.Calms (f a x)) : ∀ (l : List α) (s : State), s.Calms (l.foldl f s)
  | [], s => .refl s
  | x :: l, s => (h s x).trans (foldl h l (f s x))

theorem of_eq (c : t.cars = s.cars) (r : t.requests = s.requests) (m : t.mark = s.mark) (q : t.queue = s.queue) (d : t.slot = s.slot)
    (a : t.accounts = s.accounts) (v : t.serviceAccount = s.serviceAccount) (st : t.stage = s.stage) : s.Calms t :=
  ⟨st, State.body_congr c, fun n => by rw [State.car_congr c], fun n _ => State.car_congr c n, r, m, State.waiting_congr q d,
    fun g => by rw [a], Nat.le_of_eq v⟩

/-- The frame of an event with such an effect. -/
theorem spares (k : s.Calms t) (e : t.Ends u) : s.Spares u none where
  stage := by
    rcases e.stage with x | ⟨p, x⟩
    · exact .inl (x.trans k.stage)
    · exact .inr ⟨(congrArg Prod.fst k.stage).symm.trans p, by rw [e.now, e.table]; exact x⟩
  body n _ := (e.body n).trans (k.body n)
  held n _ := (e.held n).trans (k.held n)
  calm n _ hs hi := by
    have c := k.calm n hi
    exact (e.calm n (fun x hx => hs x (c ▸ hx)) (k.idle hi)).trans c
  entries n _ := (State.entriesOf_congr e.requests n).trans (State.entriesOf_congr k.requests n)
  mark _ := e.mark.trans k.mark
  waits w hw _ := k.waiting ▸ e.waits w hw
  firm n _ hf w hw x := e.firm n (fun y hy => hf y (k.waiting ▸ hy)) w (k.waiting.symm ▸ hw) x
  accounts g := Nat.le_trans (e.accounts g) (k.accounts g)
  service := Nat.le_trans e.service k.service

end State.Calms

theorem State.emit_calms (s : State) (p : Port) (m : OutMsg) : s.Calms (s.emit p m) := by
  obtain ⟨o, e⟩ := s.emit_shape p m
  rw [e]
  exact .of_eq rfl rfl rfl rfl rfl rfl rfl rfl

theorem State.toPanel_calms (s : State) (m : OutMsg) : s.Calms (s.toPanel m) := s.emit_calms _ m

theorem State.refresh_calms (s : State) : s.Calms s.refresh := .of_eq rfl rfl rfl rfl rfl rfl rfl rfl

theorem State.activateStaged_calms (s : State) : s.Calms s.activateStaged := by
  unfold State.activateStaged
  split
  · exact .of_eq rfl rfl rfl rfl rfl rfl rfl rfl
  · exact .refl s

theorem State.setPacer_calms (s : State) (p : PacerState) (e : Option Nat) (a : Bool) :
    s.Calms { s with pacer := p, pacerTimer := e, admitted := a } := .of_eq rfl rfl rfl rfl rfl rfl rfl rfl

theorem State.haltPacer_calms (s : State) : s.Calms s.haltPacer := (State.activateStaged_calms _).after (s.setPacer_calms _ _ _)

theorem State.enterOpenA_calms (s : State) : s.Calms s.enterOpenA := .of_eq rfl rfl rfl rfl rfl rfl rfl rfl

theorem State.enterOpenB_calms (s : State) : s.Calms s.enterOpenB := .of_eq rfl rfl rfl rfl rfl rfl rfl rfl

theorem State.enterSettleA_calms (s : State) : s.Calms s.enterSettleA :=
  have k := s.setPacer_calms .settleA (some (s.inTenths s.profile.settleA)) false
  .ite (k.trans (State.enterOpenA_calms _)) k

theorem State.enterSettleB_calms (s : State) : s.Calms s.enterSettleB :=
  have k : s.Calms { s with pacer := .settleB, pacerTimer := some (s.inTenths s.profile.settleB) } :=
    .of_eq rfl rfl rfl rfl rfl rfl rfl rfl
  .ite (k.trans (State.enterOpenB_calms _)) k

theorem State.endCycle_calms (s : State) : s.Calms s.endCycle := (State.enterSettleA_calms _).after s.activateStaged_calms

theorem State.moveTo_calms (s : State) (p : PacerState) : s.Calms (s.moveTo p) := (State.activateStaged_calms _).after (s.setPacer_calms _ _ _)

theorem State.holdOrder_calms (s : State) : s.Calms s.holdOrder := .ite (s.moveTo_calms _) (.refl s)

theorem State.waitOrder_calms (s : State) : s.Calms s.waitOrder := .ite (s.moveTo_calms _) (.refl s)

theorem State.resume_calms (s : State) : s.Calms s.resume := .ite (.ite s.haltPacer_calms s.enterSettleA_calms) (.refl s)

theorem State.resumeIfClear_calms (s : State) : s.Calms s.resumeIfClear := .ite s.resume_calms (.refl s)

theorem State.curtailRun_calms (s : State) (n : CarName) (f : FollowUps) : s.Calms (s.curtailRun n f) := by
  have put : ∀ c d : Car, s.car n = some c → c.run.isSome → d.body = c.body → d.held = c.held → s.Calms (s.putCar n d) := by
    intro c d h r b hd
    refine ⟨rfl, fun m => ?_, fun m => ?_, fun m hi => ?_, rfl, rfl, rfl, fun _ => Nat.le_refl _, Nat.le_refl _⟩
    · unfold State.body; rw [State.car_putCar]; split
      · next e => subst e; simp [h, b]
      · rfl
    · rw [State.car_putCar]; split
      · next e => subst e; simp [h, hd]
      · rfl
    · refine State.car_putCar_ne s (fun e => ?_) d
      subst e
      have := hi.1
      unfold State.runOf at this
      rw [h] at this
      rw [show c.run = none from this] at r
      cases r
  unfold State.curtailRun
  split
  · next c h =>
    split
    · next r hr =>
      have x : c.run.isSome := by rw [hr]; rfl
      exact .ite ((put c { c with pending := some (combineAction c.pending .curtail f r.permit), motion := .stopping } h x rfl rfl).trans
        (State.emit_calms _ _ _)) (put c { c with pending := some (combineAction c.pending .curtail f r.permit) } h x rfl rfl)
    · exact .refl s
  · exact .refl s

theorem State.curtailService_calms (s : State) : s.Calms s.curtailService :=
  State.Calms.foldl (f := fun a (x : CarName × Permit) => a.curtailRun x.1 .clear) (fun a x => a.curtailRun_calms x.1 _) _ s

theorem State.strainActs_calms (s : State) : s.Calms s.strainActs := by
  have k := s.toPanel_calms (.alert (.distress s.table.site.strainMode s.pacer))
  unfold State.strainActs
  dsimp only
  split
  · exact k
  · exact k.trans (State.holdOrder_calms _)
  · exact (k.trans (State.holdOrder_calms _)).trans (State.curtailService_calms _)
  · exact (k.trans (State.waitOrder_calms _)).trans (State.toPanel_calms _ _)

theorem State.assertFiltered_calms (s : State) : s.Calms s.assertFiltered := by
  have k : s.Calms { s with filtered := true, filterTimer := none } := .of_eq rfl rfl rfl rfl rfl rfl rfl rfl
  exact .ite (k.trans (State.strainActs_calms _)) k

theorem State.startFilter_calms (s : State) : s.Calms s.startFilter :=
  .ite (.refl s) (.ite s.assertFiltered_calms (.of_eq rfl rfl rfl rfl rfl rfl rfl rfl))

theorem State.strainRises_calms (s : State) : s.Calms s.strainRises := by
  have k : s.Calms { s with strainLine := true } := .of_eq rfl rfl rfl rfl rfl rfl rfl rfl
  exact .ite k (k.trans (State.startFilter_calms _))

theorem State.strainFalls_calms (s : State) : s.Calms s.strainFalls := by
  have k : s.Calms { s with strainLine := false } := .of_eq rfl rfl rfl rfl rfl rfl rfl rfl
  refine .ite k (.ite (k.trans ((State.resumeIfClear_calms _).after ?_)) (k.trans ?_)) <;>
    exact .of_eq rfl rfl rfl rfl rfl rfl rfl rfl

theorem State.blankingEnds_calms (s : State) : s.Calms s.blankingEnds := by
  have k : s.Calms { s with blankTimer := none } := .of_eq rfl rfl rfl rfl rfl rfl rfl rfl
  exact .ite (k.trans (State.startFilter_calms _)) k

end Sys2Proof.Machine
end

