-- ==== Sys2Proof/Laws/Table.lean ====
section
/-! SUPPORT. What a write of one section of an image does: when it is made, and that it leaves every other section alone (R163). -/

namespace Sys2Proof.Machine

/-! ### When a byte codes a value -/

theorem flagOf_isSome (v : List Byte) (at_ : Nat) : (flagOf v at_).isSome = true ↔ (v.getD at_ 0#8).toNat ≤ 1 := by
  unfold flagOf val1
  split <;> (simp_all; try omega)

theorem Doors.ofCode_isSome (n : Nat) : (Doors.ofCode n).isSome = true ↔ n ≤ 1 := by
  unfold Doors.ofCode
  split <;> (simp_all; try omega)

theorem PreemptMode.ofCode_isSome (n : Nat) : (PreemptMode.ofCode n).isSome = true ↔ n ≤ 2 := by
  unfold PreemptMode.ofCode
  split <;> (simp_all; try omega)

theorem StrainMode.ofCode_isSome (n : Nat) : (StrainMode.ofCode n).isSome = true ↔ n ≤ 3 := by
  unfold StrainMode.ofCode
  split <;> (simp_all; try omega)

theorem profileOf_isSome (v : List Byte) (at_ : Nat) : (profileOf v at_).isSome = true ↔ (v.getD at_ 0#8).toNat ≤ 1 := by
  unfold profileOf PaceMode.ofCode val1
  split <;> rename_i h <;> split at h <;> (simp_all; try omega)

/-- The car numbers of eight places are those before the first 255. -/
theorem takeWhile_places {cars rest : List Byte} (h : 255#8 ∉ cars) (k : ∀ b ∈ rest, b = 255#8) :
    (cars ++ rest).takeWhile (· ≠ 255#8) = cars := by
  have a : ∀ b ∈ cars, decide (b ≠ 255#8) = true := fun b m => decide_eq_true fun e => h (e ▸ m)
  rw [List.takeWhile_append_of_pos a]
  cases rest with
  | nil => simp
  | cons b l => simp [k b List.mem_cons_self]

theorem releaseOrderOf_isSome (l : List Byte) : (releaseOrderOf l).isSome = true ↔ ReleasePlaces l := by
  unfold releaseOrderOf
  constructor
  · intro h
    refine ⟨l.takeWhile (· ≠ 255#8), l.drop (l.takeWhile (· ≠ 255#8)).length, ?_, fun m => ?_, ?_⟩
    · conv_lhs => rw [← List.take_append_drop (l.takeWhile (· ≠ 255#8)).length l]
      congr 1
      exact (List.prefix_iff_eq_take.mp (List.takeWhile_prefix _)).symm
    · simpa using List.mem_takeWhile_imp m
    · by_contra k
      rw [if_neg (by simpa using k)] at h
      cases h
  · rintro ⟨cars, rest, rfl, h, k⟩
    simp only [takeWhile_places h k, List.drop_left]
    rw [if_pos (by simpa using k)]
    rfl

/-! ### The write of a section -/

theorem SiteSection.ofBytes_isSome (v : List Byte) : (SiteSection.ofBytes v).isSome = true ↔ SectionName.site.Encodes v := by
  unfold SiteSection.ofBytes SectionName.Encodes
  rw [← PreemptMode.ofCode_isSome, ← flagOf_isSome, ← StrainMode.ofCode_isSome, ← profileOf_isSome]
  unfold val1
  generalize PreemptMode.ofCode _ = a, flagOf v 13 = b, StrainMode.ofCode _ = c, profileOf v 23 = d
  by_cases l : v.length = 30 <;> cases a <;> cases b <;> cases c <;> cases d <;> simp [l]

theorem GroupSection.ofBytes_isSome (g : GroupNo) (v : List Byte) :
    (GroupSection.ofBytes v).isSome = true ↔ (SectionName.group g).Encodes v := by
  unfold GroupSection.ofBytes SectionName.Encodes
  rw [← flagOf_isSome v 0, ← Doors.ofCode_isSome (v.getD 23 0#8).toNat, ← flagOf_isSome v 24, ← releaseOrderOf_isSome]
  unfold val1
  generalize flagOf v 0 = a, Doors.ofCode _ = b, flagOf v 24 = c, releaseOrderOf _ = d
  by_cases l : v.length = 43 <;> cases a <;> cases b <;> cases c <;> cases d <;> simp [l]

theorem CarSection.ofBytes_isSome (n : CarName) (v : List Byte) :
    (CarSection.ofBytes v).isSome = true ↔ (SectionName.car n).Encodes v := by
  unfold CarSection.ofBytes SectionName.Encodes
  rw [← flagOf_isSome v 0]
  generalize flagOf v 0 = a
  by_cases l : v.length = 8 <;> cases a <;> simp [l]

/-- A write is made exactly where the values are an encoding of the section (R163). -/
theorem Image.write_isSome (img : Image) (sec : SectionName) (v : List Byte) : (img.write sec v).isSome = true ↔ sec.Encodes v := by
  cases sec with
  | site => simpa [Image.write] using SiteSection.ofBytes_isSome v
  | group g => simpa [Image.write] using GroupSection.ofBytes_isSome g v
  | car n => simpa [Image.write] using CarSection.ofBytes_isSome n v

/-- A write leaves every other section of the image alone (R163). -/
theorem Image.write_keeps {img t : Image} {sec : SectionName} {v : List Byte} (h : img.write sec v = some t) :
    (sec ≠ .site → t.site = img.site) ∧ (∀ g : GroupNo, sec ≠ .group g → t.groups[g] = img.groups[g]) ∧
    ∀ n : CarName, sec ≠ .car n → t.cars[n] = img.cars[n] := by
  cases sec <;> simp only [Image.write, Option.map_eq_some_iff] at h <;> obtain ⟨x, -, rfl⟩ := h <;>
    simp +contextual [Fin.ext_iff]

/-- The stored form of every other section is as it was (R163). -/
theorem Image.write_read {img t : Image} {sec x : SectionName} {v : List Byte} (h : img.write sec v = some t) (hx : x ≠ sec) :
    t.read x = img.read x := by
  obtain ⟨a, b, c⟩ := Image.write_keeps h
  cases x with
  | site => simp only [Image.read, a hx.symm]
  | group g => simp only [Image.read, b g hx.symm]
  | car n => simp only [Image.read, c n hx.symm]

end Sys2Proof.Machine
end

