-- ==== Sys2Proof/Laws/Values.lean ====
section
/-! SUPPORT. What the shared operations leave in the record, the entries, the permits and the messages of the car they name: the values
that a result statement reads. -/

namespace Sys2Proof.Machine

/-! ### Messages leave the rest alone -/

@[simp] theorem State.emit_cars (s : State) (p : Port) (m : OutMsg) : (s.emit p m).cars = s.cars := by
  obtain ⟨o, e⟩ := s.emit_shape p m; rw [e]
@[simp] theorem State.emit_requests (s : State) (p : Port) (m : OutMsg) : (s.emit p m).requests = s.requests := by
  obtain ⟨o, e⟩ := s.emit_shape p m; rw [e]
@[simp] theorem State.emit_waiting (s : State) (p : Port) (m : OutMsg) : (s.emit p m).waiting = s.waiting := by
  obtain ⟨o, e⟩ := s.emit_shape p m; rw [e]; rfl
@[simp] theorem State.emit_table (s : State) (p : Port) (m : OutMsg) : (s.emit p m).table = s.table := by
  obtain ⟨o, e⟩ := s.emit_shape p m; rw [e]
@[simp] theorem State.emit_phase (s : State) (p : Port) (m : OutMsg) : (s.emit p m).phase = s.phase := by
  obtain ⟨o, e⟩ := s.emit_shape p m; rw [e]
@[simp] theorem State.emit_now (s : State) (p : Port) (m : OutMsg) : (s.emit p m).now = s.now := by
  obtain ⟨o, e⟩ := s.emit_shape p m; rw [e]
@[simp] theorem State.emit_car (s : State) (p : Port) (m : OutMsg) (n : CarName) : (s.emit p m).car n = s.car n :=
  State.car_congr (s.emit_cars p m) n
@[simp] theorem State.emit_entriesOf (s : State) (p : Port) (m : OutMsg) (n : CarName) : (s.emit p m).entriesOf n = s.entriesOf n :=
  State.entriesOf_congr (s.emit_requests p m) n
@[simp] theorem State.emit_waitsOf (s : State) (p : Port) (m : OutMsg) (n : CarName) : (s.emit p m).waitsOf n = s.waitsOf n := by
  unfold State.waitsOf; rw [State.emit_waiting]

/-- A message sent on a port that is up is there. -/
theorem State.mem_emit {s : State} {p : Port} (h : s.portUp p = true) (m : OutMsg) : (p, m) ∈ (s.emit p m).outbox := by
  unfold State.emit; rw [if_pos h]; simp

/-! ### One record written -/

theorem State.car_modCar_same (s : State) (n : CarName) (f : Car → Car) : (s.modCar n f).car n = (s.car n).map f := by
  rw [State.car_modCar, if_pos rfl]

theorem State.modCar_some {s : State} {n : CarName} {c : Car} (h : s.car n = some c) (f : Car → Car) : s.modCar n f = s.putCar n (f c) := by
  unfold State.modCar; rw [h]

@[simp] theorem State.modCar_requests (s : State) (n : CarName) (f : Car → Car) : (s.modCar n f).requests = s.requests := by
  unfold State.modCar; split <;> rfl
@[simp] theorem State.modCar_waiting (s : State) (n : CarName) (f : Car → Car) : (s.modCar n f).waiting = s.waiting := by
  unfold State.modCar; split <;> rfl
@[simp] theorem State.modCar_entriesOf (s : State) (n m : CarName) (f : Car → Car) : (s.modCar n f).entriesOf m = s.entriesOf m :=
  State.entriesOf_congr (s.modCar_requests n f) m
@[simp] theorem State.modCar_waitsOf (s : State) (n m : CarName) (f : Car → Car) : (s.modCar n f).waitsOf m = s.waitsOf m := by
  unfold State.waitsOf; rw [State.modCar_waiting]
@[simp] theorem State.modCar_outbox (s : State) (n : CarName) (f : Car → Car) : (s.modCar n f).outbox = s.outbox := by
  unfold State.modCar; split <;> rfl
@[simp] theorem State.modCar_control (s : State) (n : CarName) (f : Car → Car) : (s.modCar n f).control = s.control := by
  unfold State.modCar; split <;> rfl
@[simp] theorem State.modCar_accounts (s : State) (n : CarName) (f : Car → Car) : (s.modCar n f).accounts = s.accounts := by
  unfold State.modCar; split <;> rfl
@[simp] theorem State.modCar_serviceAccount (s : State) (n : CarName) (f : Car → Car) : (s.modCar n f).serviceAccount = s.serviceAccount := by
  unfold State.modCar; split <;> rfl
@[simp] theorem State.modCar_mark (s : State) (n : CarName) (f : Car → Car) : (s.modCar n f).mark = s.mark := by
  unfold State.modCar; split <;> rfl

/-! ### Entries -/

theorem State.entryOf_none {s : State} {n : CarName} (h : s.entriesOf n = []) : s.entryOf n = none := by
  unfold State.entryOf; unfold State.entriesOf at h
  rw [List.find?_eq_none]
  intro x hx
  have := List.filter_eq_nil_iff.1 h x hx
  simpa using this

theorem State.entryOf_some {s : State} {n : CarName} (h : s.entriesOf n ≠ []) : ∃ e, s.entryOf n = some e ∧ e ∈ s.entriesOf n := by
  cases q : s.entryOf n with
  | none =>
    unfold State.entryOf at q; rw [List.find?_eq_none] at q
    exact absurd (List.filter_eq_nil_iff.2 fun x hx => by simpa using q x hx) h
  | some e =>
    refine ⟨e, rfl, ?_⟩
    unfold State.entryOf at q
    unfold State.entriesOf
    exact List.mem_filter.2 ⟨List.mem_of_find?_eq_some q, List.find?_some (p := fun e : Entry => decide (e.car = n)) q⟩

@[simp] theorem State.removeEntry_cars (s : State) (n : CarName) : (s.removeEntry n).cars = s.cars := by
  unfold State.removeEntry; split <;> rfl
@[simp] theorem State.removeEntry_car (s : State) (n m : CarName) : (s.removeEntry n).car m = s.car m :=
  State.car_congr (s.removeEntry_cars n) m
@[simp] theorem State.removeEntry_waiting (s : State) (n : CarName) : (s.removeEntry n).waiting = s.waiting := by
  unfold State.removeEntry; split <;> rfl
@[simp] theorem State.removeEntry_outbox (s : State) (n : CarName) : (s.removeEntry n).outbox = s.outbox := by
  unfold State.removeEntry; split <;> rfl
@[simp] theorem State.removeEntry_waitsOf (s : State) (n m : CarName) : (s.removeEntry n).waitsOf m = s.waitsOf m := by
  unfold State.waitsOf; rw [State.removeEntry_waiting]
theorem State.removeEntry_same {s : State} {n : CarName} (h : s.entriesOf n = []) : s.removeEntry n = s := by
  unfold State.removeEntry; rw [State.entryOf_none h]

@[simp] theorem State.removeEntry_entriesOf (s : State) (n : CarName) : (s.removeEntry n).entriesOf n = [] := by
  by_cases h : s.entriesOf n = []
  · rw [State.removeEntry_same h, h]
  · obtain ⟨e, he, -⟩ := State.entryOf_some h
    unfold State.removeEntry; rw [he]
    unfold State.entriesOf
    rw [List.filter_eq_nil_iff]
    intro x hx
    simp at hx
    simpa using hx.2

theorem filter_insertEntry_same {p : Entry → Bool} {e : Entry} (h : p e = true) :
    ∀ l : List Entry, l.filter p = [] → (insertEntry e l).filter p = [e]
  | [], _ => by simp [insertEntry, h]
  | x :: l, q => by
    rw [List.filter_cons] at q
    by_cases px : p x = true
    · rw [if_pos px] at q; cases q
    · rw [if_neg px] at q
      unfold insertEntry
      split
      · rw [List.filter_cons, if_neg px]; exact filter_insertEntry_same h l q
      · rw [List.filter_cons, if_pos h, List.filter_cons, if_neg px, q]

/-- The entry that addEntry makes (R82, R83). -/
def State.newEntry (s : State) (n : CarName) (cls : RunClass) (d : Option Landing) (a : Nat) : Entry :=
  { car := n, cls := cls, destination := d, trapped := cls = .recall && s.carIs n Car.isTrapped, arrival := a }

theorem State.addEntry_car (s : State) (n : CarName) (cls : RunClass) (d : Option Landing) (a : Nat) :
    (s.addEntry n cls d a).car n = (s.car n).map fun c => { c with motion := .requested, planDue := false } := by
  unfold State.addEntry
  dsimp only
  rw [State.car_modCar_same]
  exact congrArg _ (s.removeEntry_car n n)

theorem State.addEntry_waiting (s : State) (n : CarName) (cls : RunClass) (d : Option Landing) (a : Nat) :
    (s.addEntry n cls d a).waiting = s.waiting := by
  unfold State.addEntry
  dsimp only
  rw [State.modCar_waiting]
  exact s.removeEntry_waiting n

theorem State.carIs_congr {s t : State} {n : CarName} (h : t.car n = s.car n) (p : Car → Bool) : t.carIs n p = s.carIs n p := by
  unfold State.carIs; rw [h]

theorem State.addEntry_requests {s : State} {n : CarName} (h : s.entriesOf n = []) (cls : RunClass) (d : Option Landing) (a : Nat) :
    (s.addEntry n cls d a).requests =
      s.requests.set (groupOf n) (insertEntry (s.newEntry n cls d a) (s.requests[groupOf n])) := by
  unfold State.addEntry State.newEntry
  dsimp only
  rw [State.modCar_requests, State.removeEntry_same h]

theorem State.addEntry_entriesOf (s : State) (n : CarName) (cls : RunClass) (d : Option Landing) (a : Nat) :
    (s.addEntry n cls d a).entriesOf n = [s.newEntry n cls d a] := by
  unfold State.addEntry State.newEntry
  dsimp only
  rw [State.modCar_entriesOf]
  have q := s.removeEntry_entriesOf n
  unfold State.entriesOf at q ⊢
  rw [State.carIs_congr (s.removeEntry_car n n)]
  simp only [Fin.getElem_fin, Vector.getElem_set_self]
  exact filter_insertEntry_same (by simp) _ q

/-! ### Waiting permits -/

theorem State.waitingOf_none {s : State} {n : CarName} (h : s.waitsOf n = []) : s.waitingOf n = none := by
  unfold State.waitingOf; unfold State.waitsOf at h
  rw [List.find?_eq_none]
  intro x hx
  have := List.filter_eq_nil_iff.1 h x hx
  simpa using this

theorem State.waitingOf_some {s : State} {n : CarName} (h : s.waitsOf n ≠ []) : ∃ w, s.waitingOf n = some w ∧ (s.waitsOf n).head? = some w := by
  cases q : s.waitsOf n with
  | nil => exact absurd q h
  | cons w l =>
    refine ⟨w, ?_, rfl⟩
    unfold State.waitingOf
    rw [← List.head?_filter]
    have : s.waiting.filter (fun w => decide (w.car = n)) = w :: l := q
    rw [this]; rfl

@[simp] theorem State.cancelWaiting_cars (s : State) (n : CarName) : (s.cancelWaiting n).cars = s.cars := by
  unfold State.cancelWaiting; split <;> rfl
@[simp] theorem State.cancelWaiting_car (s : State) (n m : CarName) : (s.cancelWaiting n).car m = s.car m :=
  State.car_congr (s.cancelWaiting_cars n) m
@[simp] theorem State.cancelWaiting_requests (s : State) (n : CarName) : (s.cancelWaiting n).requests = s.requests := by
  unfold State.cancelWaiting; split <;> rfl
@[simp] theorem State.cancelWaiting_entriesOf (s : State) (n m : CarName) : (s.cancelWaiting n).entriesOf m = s.entriesOf m :=
  State.entriesOf_congr (s.cancelWaiting_requests n) m
@[simp] theorem State.cancelWaiting_outbox (s : State) (n : CarName) : (s.cancelWaiting n).outbox = s.outbox := by
  unfold State.cancelWaiting; split <;> rfl
@[simp] theorem State.cancelWaiting_waitsOf (s : State) (n : CarName) : (s.cancelWaiting n).waitsOf n = [] := by
  by_cases h : s.waitsOf n = []
  · unfold State.cancelWaiting; rw [State.waitingOf_none h]; exact h
  · obtain ⟨w, hw, -⟩ := State.waitingOf_some h
    unfold State.cancelWaiting; rw [hw]
    unfold State.waitsOf
    dsimp only
    rw [State.waiting_dropWaiting, List.filter_filter, List.filter_eq_nil_iff]
    intro x _
    simp
theorem State.cancelWaiting_same {s : State} {n : CarName} (h : s.waitsOf n = []) : s.cancelWaiting n = s := by
  unfold State.cancelWaiting; rw [State.waitingOf_none h]

theorem State.cancelWaiting_accounts {s : State} {n : CarName} {w : Waiting} {l : List Waiting} (h : s.waitsOf n = w :: l) :
    (s.cancelWaiting n).accounts = s.accounts.set (groupOf n) (s.accounts[groupOf n] - w.permit.groupCharge) ∧
    (s.cancelWaiting n).serviceAccount = s.serviceAccount - w.permit.serviceCharge := by
  obtain ⟨x, hx, hh⟩ := State.waitingOf_some (s := s) (n := n) (by rw [h]; simp)
  rw [h] at hh; cases hh
  unfold State.cancelWaiting; rw [hx]
  exact ⟨rfl, rfl⟩

/-! ### Idle and settled cars -/

theorem State.idle_of {s : State} {n : CarName} (h : s.HoldsNoPermit n) : s.Idle n :=
  ⟨h.1, fun w hw e => by
    have := List.filter_eq_nil_iff.1 h.2 w hw
    simp [e] at this⟩

theorem State.HoldsNoPermit.congr {s t : State} {n : CarName} (h : s.HoldsNoPermit n) (c : t.car n = s.car n) (w : t.waiting = s.waiting) :
    t.HoldsNoPermit n := ⟨by unfold State.runOf; rw [c]; exact h.1, by unfold State.waitsOf; rw [w]; exact h.2⟩

theorem State.settled_of {s : State} {n : CarName} {c : Car} (h : s.car n = some c) (p : c.step ≠ .parked) (q : c.step ≠ .shut) :
    s.Settled n := fun x hx => by rw [h] at hx; cases hx; exact ⟨p, q⟩

/-- The motion and the pending record of a car that holds nothing, after the end of an event. -/
theorem State.Ends.pose_some {s t : State} (k : s.Ends t) {n : CarName} {c : Car} (h : s.car n = some c) (i : s.HoldsNoPermit n) :
    ∃ d, t.car n = some d ∧ d.motion = c.motion ∧ d.pending = c.pending ∧ d.held = c.held ∧ d.body = c.body := by
  have p := k.pose n (State.idle_of i)
  have q := k.held n
  have r := k.body n
  unfold State.body at r
  rw [h] at p q r
  cases e : t.car n with
  | none => rw [e] at p; cases p
  | some d =>
    rw [e] at p q r
    simp only [Option.map_some, Option.some.injEq, Car.pose, Prod.mk.injEq] at p q r
    exact ⟨d, rfl, p.1, p.2, q, r⟩

/-- Any car after the end of an event. -/
theorem State.Ends.car_some {s t : State} (k : s.Ends t) {n : CarName} {c : Car} (h : s.car n = some c) :
    ∃ d, t.car n = some d ∧ d.held = c.held ∧ d.body = c.body := by
  have q := k.held n
  have r := k.body n
  unfold State.body at r
  rw [h] at q r
  cases e : t.car n with
  | none => rw [e] at q; cases q
  | some d =>
    rw [e] at q r
    simp only [Option.map_some, Option.some.injEq] at q r
    exact ⟨d, rfl, q, r⟩

theorem State.Ends.entriesOf {s t : State} (k : s.Ends t) (n : CarName) : t.entriesOf n = s.entriesOf n :=
  State.entriesOf_congr k.requests n

theorem State.Ends.waitsOf_nil {s t : State} (k : s.Ends t) {n : CarName} (h : s.waitsOf n = []) : t.waitsOf n = [] := by
  unfold State.waitsOf at h ⊢
  rw [List.filter_eq_nil_iff] at h ⊢
  exact fun w hw => h w (k.waits w hw)

theorem State.Ends.mem {s t : State} (k : s.Ends t) {x : Port × OutMsg} (h : x ∈ s.outbox) : x ∈ t.outbox := k.sent.subset h

end Sys2Proof.Machine
end

