-- ==== Sys2Proof/Tests/Slice0.lean ====
section
/-! SUPPORT. Tests: what WellFormed refuses, frames, worked cases of the manual, and for each statement with hypotheses a state and
operands that meet them. -/

namespace Sys2Proof.Tests

open Sys2Proof.Machine

set_option Elab.async false

/-! ### What WellFormed and the decoder refuse -/

theorem test_table_write_of_nine_values_refused : (Instr.tableWrite 0#8 (List.replicate 9 0#8)).wellFormed = false := by decide

theorem test_table_write_of_eight_values_taken : (Instr.tableWrite 8#8 (List.replicate 8 0#8)).wellFormed = true := by decide

/-- A frame that its link accepts is not a dropped one: RETRY of car 47. -/
theorem test_accepted_frame_is_not_dropped :
    (Instr.droppedFrame (.link .panel) [0xA5#8, 0x01#8, 0x44#8, 0x2F#8, 0xEF#8, 0x29#8]).wellFormed = false := by decide +kernel

/-- The same frame on the power link, which does not take its type, is dropped. -/
theorem test_frame_of_another_link_is_dropped :
    (Instr.droppedFrame (.link .power) [0xA5#8, 0x01#8, 0x44#8, 0x2F#8, 0xEF#8, 0x29#8]).wellFormed = true := by decide +kernel

/-- A length of 0 makes a bad frame, and a frame that is cut short is none yet (R158). -/
theorem test_length_zero_is_bad :
    attempt [0xA5#8, 0x00#8, 0x44#8] = .bad ∧ attempt [0xA5#8, 0x01#8, 0x44#8, 0x2F#8, 0xEF#8] = .short := by decide +kernel

/-- The check of the nine characters 1 to 9 under polynomial 0x1021 and initial value 0xFFFF, as the literature on the code gives it. -/
theorem test_crc16_of_the_check_string :
    crc16 [0x31#8, 0x32#8, 0x33#8, 0x34#8, 0x35#8, 0x36#8, 0x37#8, 0x38#8, 0x39#8] = 0x29B1#16 := by decide +kernel

/-- The table gives bits to no row. -/
theorem test_no_word_spells_a_command : decodeTableWord 16 0 = none ∧ (State.reset.withFetchWord 16 0).pending = [] := by decide

/-! ### Small states -/

/-- Group 0 of 21 landings with recall landings 0 and 1, and its cars 0, 1 and 2. -/
def img : Image :=
  { fallbackImage with
    groups := fallbackImage.groups.set 0 { fallbackGroup with configured := true, highest := 20, defaultAlternate := 1 },
    cars := ((fallbackImage.cars.set 0 { fallbackCar with configured := true }).set 1
      { fallbackCar with configured := true }).set 2 { fallbackCar with configured := true } }

/-- Every link UP, 500 kW offered, in a phase, with what the phase calls for. -/
def bare (p : Phase) : State :=
  let s := { State.resetWith img none none with
    groupLinks := Vector.replicate 6 ⟨true, some 260⟩, powerLink := ⟨true, some 300⟩, panelLink := ⟨true, some 260⟩,
    offered := 500, absorb := 100, accounts := Vector.replicate 6 50, serviceAccount := 40, phase := p, now := 200 }
  match p with
  | .startup | .normal | .outage => s
  | .takeover => { s with takeover := some ⟨.settling, 210⟩, tickTimer := some 205 }
  | .recall => { s with pacer := .openA, blHeld := false, tickTimer := some 205 }
  | .service => { s with pacer := .openA, blHeld := false, tickTimer := some 205, window := .recallWindow, windowTimer := some 300 }
  | .preTransfer => { s with
      blHeld := false, tickTimer := some 205, handshake := some ⟨.service, false, .closedTransition, false⟩, preTimer := some 300,
      trip := true, tripLine := true }

/-- A powered car at rest at landing 3. -/
def car : Car := { Car.reset with position := some 3, door := .closed, powered := true, load := some 50, mode := 2#4 }

def put (s : State) (n : CarName) (c : Car) : State := { s with cars := s.cars.set n (some c) }

/-- The state with cars 0, 1 and 2 as given, and its figures formed. -/
def three (s : State) (a b c : Car) : State := (put (put (put s 0 a) 1 b) 2 c).refresh

/-- A motoring permit of a class. -/
def permit (cls : RunClass) : Permit :=
  { cls := cls, kind := .motor, demand := 30, start := 60, units := 5, groupCharge := 5,
    serviceCharge := if cls = .service then 5 else 0, destination := some (if cls = .recall then 0 else 8), floors := 5, grantTime := 90,
    origin := 80, serial := 0 }

def entry (n : CarName) (cls : RunClass) : Entry :=
  { car := n, cls := cls, destination := some (if cls = .recall then 0 else 8), trapped := false, arrival := 90 }

def withEntry (s : State) (e : Entry) : State := { s with requests := s.requests.set 0 [e] }

/-- A car in a step with a run of a class in a state. -/
def runner (step : RecoveryStep) (cls : RunClass) (st : RunState) : Car :=
  { car with
    step := step, moving := true, run := some ⟨permit cls, 450, st⟩,
    motion := match st with | .startedWait _ => .starting | _ => .running }

def idler : Car := { car with step := .service }

/-- SERVICE: car 0 rests, car 1 has an entry, car 2 a permit that waits. -/
def served : State :=
  three { withEntry (bare .service) (entry 1 .service) with queue := [⟨2, permit .service⟩] }
    { idler with member := some .ordinary } { idler with motion := .requested } { idler with motion := .granted }

/-- SERVICE: car 0 runs, car 1 waits for its start, car 2 is in GRACE. -/
def busy : State :=
  three (bare .service) (runner .service .service (.running 260)) (runner .service .service (.startedWait 260))
    (runner .service .service (.grace .runTimeout 260))

/-- RECALL: car 0 has an entry, car 1 runs, car 2 dwells. -/
def recalled : State :=
  three (withEntry (bare .recall) (entry 0 .recall)) { car with step := .recallDue, motion := .requested }
    (runner .recalling .recall (.running 260)) { car with step := .dwell, position := some 0, dwell := some 260 }

/-- RECALL: car 0 waits for its start, car 1 has a permit that waits, car 2 is given up. -/
def recalled2 : State :=
  three { bare .recall with queue := [⟨1, permit .recall⟩] } (runner .recalling .recall (.startedWait 260))
    { car with step := .recallDue, motion := .granted } { car with step := .givenUp, attempts := 3 }

/-- RECALL: car 0 waits for its start, car 1 has a permit that waits, each at its recall landing. -/
def inPlace : State :=
  three { bare .recall with queue := [⟨1, permit .recall⟩] } { runner .recalling .recall (.startedWait 260) with position := some 0 }
    { car with step := .recallDue, motion := .granted, position := some 0 } { car with step := .givenUp, position := some 0 }

/-- TAKEOVER, settling. -/
def settling : State := three (bare .takeover) car { car with step := .awaiting } { car with step := .parked }

/-- TAKEOVER, collecting: car 0 stands at its recall landing, car 1 elsewhere, car 2 has not reported. -/
def collecting : State :=
  three { bare .takeover with takeover := some ⟨.collecting, 210⟩ }
    { car with step := .awaiting, position := some 0, reported := true } { car with step := .awaiting, reported := true }
    { car with step := .awaiting }

/-- A phase without holdings. -/
def quiet (p : Phase) : State :=
  three (bare p) car { car with image := some ⟨2#4, .up, some 8, .closed, 3⟩ } { car with motion := .out .fault }

/-- PRE_TRANSFER from SERVICE with a run. -/
def handing : State :=
  three (bare .preTransfer) idler (runner .service .service (.running 260))
    { car with step := .dwell, position := some 0, dwell := some 260 }

/-- PRE_TRANSFER from SERVICE with every car at rest, and CLEAR not sent for the trip under kind CLOSED. -/
def handed : State := three (bare .preTransfer) idler { car with step := .givenUp } { car with step := .parked }

def report (flags position : Byte) : StatusBytes := ⟨0, position, flags, 0, 50, 0x12, 255, 0, 7, 1⟩

/-- The figures of a state of three cars agree with what they are formed from, so the other invariants make it sound. -/
theorem three_sound {s : State} {a b c : Car} (h : (three s a b c).soundTest = true) : (three s a b c).Sound :=
  sound_of_test (State.refresh_refresh _) h

theorem served_sound : served.Sound := three_sound (by decide +kernel)
theorem busy_sound : busy.Sound := three_sound (by decide +kernel)
theorem recalled_sound : recalled.Sound := three_sound (by decide +kernel)
theorem recalled2_sound : recalled2.Sound := three_sound (by decide +kernel)
theorem inPlace_sound : inPlace.Sound := three_sound (by decide +kernel)
theorem settling_sound : settling.Sound := three_sound (by decide +kernel)
theorem collecting_sound : collecting.Sound := three_sound (by decide +kernel)
theorem startup_sound : (quiet .startup).Sound := three_sound (by decide +kernel)
theorem normal_sound : (quiet .normal).Sound := three_sound (by decide +kernel)
theorem outage_sound : (quiet .outage).Sound := three_sound (by decide +kernel)
theorem handing_sound : handing.Sound := three_sound (by decide +kernel)
theorem handed_sound : handed.Sound := three_sound (by decide +kernel)

/-! ### Worked cases of section 3.4 -/

/-- Car 2.3 of the worked cases at a load and a landing. -/
def lift (load : Option Nat) (position : Option Landing) : State :=
  let r : CarSection := { configured := true, m := 60, k := 180, reff := 70, b := 45, i := 5 }
  let s := State.resetWith { img with cars := img.cars.set 19 r } none none
  put s 19 { car with load := load, position := position }

/-- Kind, demand, start demand and units of a run of car 2.3. -/
def worked (load : Option Nat) (position destination : Option Landing) : Option (Kind × Nat × Nat × Nat) :=
  ((lift load position).figures { entry 19 .recall with destination := destination }).map fun f =>
    (f.kind, f.demand, f.start, f.units)

theorem test_figures_at_80_percent :
    worked (some 80) (some 10) (some 40) = some (.motor, 39, 71, 20) ∧
    worked (some 80) (some 40) (some 10) = some (.regen, 26, 11, 13) := by decide +kernel

theorem test_figures_of_the_empty_car :
    worked (some 0) (some 40) (some 10) = some (.motor, 50, 90, 25) ∧
    worked (some 0) (some 10) (some 40) = some (.regen, 34, 11, 17) := by decide +kernel

theorem test_figures_of_locate_and_unknown_load :
    worked none (some 10) none = some (.motor, 18, 33, 1) ∧ worked none (some 10) (some 40) = some (.motor, 60, 108, 30) := by
  decide +kernel

theorem test_figures_near_balance :
    worked (some 45) (some 40) (some 10) = some (.motor, 6, 11, 3) ∧ worked (some 46) (some 40) (some 10) = some (.motor, 6, 11, 3) ∧
    worked (some 47) (some 40) (some 10) = some (.regen, 1, 11, 1) ∧ worked (some 44) (some 40) (some 10) = some (.motor, 6, 11, 3) := by
  decide +kernel

/-- The empty car 5.0 at the limits of the ratings, and under the fallback table. -/
theorem test_figures_at_the_limits :
    runFigures { configured := true, m := 80, k := 300, reff := 90, b := 55, i := 5 } (some 0) 110 10 = some ⟨.motor, 80, 240, 128, 100⟩ ∧
    runFigures { configured := true, m := 80, k := 300, reff := 90, b := 55, i := 5 } (some 0) 10 110 = some ⟨.regen, 72, 24, 115, 100⟩ ∧
    runFigures fallbackCar (some 0) 10 110 = some ⟨.motor, 10, 20, 16, 100⟩ := by decide +kernel

/-! ### Witnesses: the step, the invariants, the rules over all commands -/

/-- exec answers a next state, and a test holds of it. -/
def runs (i : Instr) (s : State) (p : State → Bool := fun _ => true) : Bool := nextIs p (exec i s)

/-- What runs establishes, as the statements put it. -/
theorem next_of_runs {i : Instr} {s : State} {p : State → Bool} (h : runs i s p = true) : ∃ t, exec i s = .next t ∧ p t = true :=
  next_of_nextIs h

/-- An empty queue without a decision that is due, with a selection and with an admission attempt. -/
theorem witness_StepTakesFront :
    State.reset.pending = [] ∧ State.reset.selectionDue = false ∧ State.reset.admissionDue = false ∧ served.pending = [] ∧
    ({ served with selectionDue := true } : State).admissionDue = false ∧
    ({ served with admissionDue := true } : State).admissionDue = true := ⟨rfl, rfl, rfl, rfl, rfl, rfl⟩

/-- SERVICE: pre-emption for the RECALL entry of car 0, held whatever is freed, takes from one of cars 1 and 2 what it lets the other have. -/
def alternating : State :=
  let s := { bare .service with requests := (Vector.replicate 6 []).set 0 [entry 1 .service, entry 0 .recall] }
  three { s with
      table := { s.table with site := { s.table.site with preemption := .queued } }, offered := 50,
      profile := { s.profile with stepPercent := 100 }, queue := [⟨2, permit .service⟩], grants := 1 }
    { car with step := .recallDue, motion := .requested, load := some 40 } { idler with motion := .requested }
    { idler with motion := .granted }

/-- An entry, a tick, and a selection that was due; a selection that grants, one that grants nothing, and a run that is cut short. -/
theorem witness_SelectionsFollow :
    (served.selectionDue = true → served.MaySelect) ∧
    runs (.request 0 0#8 8#8) served (fun t => t.selectionDue && decide (t.requests ≠ served.requests) && decide (t.phase = .service) &&
      decide (t.pacer = .openA) && decide (t.queue.length < 4) && decide (t.episode = .closed)) ∧
    served.tickTimer.isSome = true ∧ runs .accountTick served (fun t => t.selectionDue) ∧
    runs .clear { served with selectionDue := true } (fun t => t.selectionDue) ∧
    runs (.request 0 1#8 8#8) served (fun t => t.selectionDue && decide (t.requests = served.requests) &&
      t.outbox.all fun x => decide (x ≠ (.link (.group 0), .refuse 1#8 .busy))) ∧
    (served.selections 1).grants = served.grants + 1 ∧ (busy.selections 1).grants = busy.grants ∧
    (alternating.selections 2).selectionDue = true := by
  refine ⟨fun h => absurd h (by decide), ?_⟩
  decide +kernel

/-- The step on an empty queue makes the selection that the request has made due, and no time passes (R88). -/
theorem test_selection_follows_the_request :
    runs (.request 0 0#8 8#8) (three (bare .service) idler idler idler) (fun t =>
      nextIs (fun u => decide (u.waiting.map Waiting.car = [0] ∧ u.now = t.now ∧ u.selectionDue = false)) (step t)) := by decide +kernel

/-- Three entries and no permit that waits: one GRANT grants all three, each followed by another selection (R88). -/
theorem test_one_grant_follows_another :
    runs .grant (three { bare .service with requests := (Vector.replicate 6 []).set 0 [entry 0 .service, entry 1 .service, entry 2 .service] }
      { idler with motion := .requested } { idler with motion := .requested } { idler with motion := .requested }) (fun t =>
      t.waiting.length = 3 ∧ t.selectionDue = false) := by decide +kernel

/-- A state with two commands that wait. -/
def ticking : State := three { bare .service with pending := [.accountTick, .grant] } idler (runner .service .service (.running 260)) idler

/-- For FiguresStayFresh, ShapeKept, BoundsKept and HoldingsKept alike. -/
theorem witness_FiguresStayFresh_ShapeKept_BoundsKept_HoldingsKept :
    State.Sound ticking ∧ isNext (step ticking) = true ∧ State.Numbered { ticking with grants := 1 } ∧
    (State.permitOf { ticking with grants := 1 } 1).isSome = true ∧ isNext (step { ticking with grants := 1 }) = true :=
  ⟨three_sound (by decide +kernel), by decide +kernel, numbered_of_test (by decide +kernel), by decide +kernel⟩

/-- A grant makes a permit, an admission puts one into a car's field, and a tick does neither. -/
theorem witness_OnlyGrantsAndStartsGrow :
    runs .grant served (fun t => t.waiting.length = 2) ∧ runs .admission served (fun t => (t.runOf 2).isSome) ∧
    runs .accountTick served := by decide +kernel

/-- A phase in which car 0 is as given and group 0 has a selection, a count and a shut-when-parked flag. -/
def serving (p : Phase) (c : Car) (sel : Selection) (count : Nat) (shut : Bool) : State :=
  let s := { bare p with selection := Vector.replicate 6 sel }
  let g := s.table.groups[(0 : GroupNo)]
  three { s with table := { s.table with
      groups := s.table.groups.set 0 { g with serviceCount := count, releaseOrder := [0, 1], shutWhenParked := shut } } }
    c { car with step := .parked } { car with step := .parked }

/-- RECALL with one car left to come. -/
def lastDwell : State :=
  three (bare .recall) { car with step := .parked } { car with step := .givenUp } { car with step := .dwell, position := some 0, dwell := some 260 }

theorem lastDwell_sound : lastDwell.Sound := three_sound (by decide +kernel)

theorem recallOpen_of {s : State} (h : s.recallComplete = false) : ¬ s.RecallMet :=
  fun m => Bool.false_ne_true (h.symm.trans (s.recallComplete_iff.mpr m))

/-- RECALL that goes on, RECALL that the last dwell ends, and the same where car 0 is released in the fill of that event; and what each leaves
of the phase (R19, R146, R148). -/
theorem witness_PhaseMoves_recall :
    ¬ recalled.RecallMet ∧ runs .accountTick recalled (fun t => t.phase = .recall) ∧
    ¬ lastDwell.RecallMet ∧ runs (.dwellTimerExpiry 2) lastDwell (fun t => t.phase = .service) ∧
    ¬ (serving .recall { car with step := .dwell, position := some 0, dwell := some 260 } .auto 1 false).RecallMet ∧
    runs (.dwellTimerExpiry 0) (serving .recall { car with step := .dwell, position := some 0, dwell := some 260 } .auto 1 false) (fun t =>
      t.phase = .service ∧ (.link (.group 0), .order 0 .release 0) ∈ t.outbox) :=
  ⟨recallOpen_of (by decide +kernel), by decide +kernel, recallOpen_of (by decide +kernel), by decide +kernel,
    recallOpen_of (by decide +kernel), by decide +kernel⟩

theorem witness_PhaseMoves :
    runs (.source 1#8 0#8) (quiet .normal) (fun t => t.phase ≠ .normal) ∧
    runs .collectionTimerExpiry collecting (fun t => t.phase ≠ .takeover) ∧
    runs (.dwellTimerExpiry 2) lastDwell (fun t => t.phase ≠ .recall) ∧
    runs .deviceReset (quiet .normal) (fun t => t.phase ≠ .normal) := by decide +kernel

theorem witness_ChangesAnnounced :
    runs (.capacity 300#16 100#16) served (fun t => t.powerLink.up && decide (t.usable ≠ served.usable)) ∧
    runs (.status 0 (report 0x20 5)) served (fun t =>
      t.panelLink.up && decide ((served.car 0).map (served.summary 0) ≠ (t.car 0).map (t.summary 0))) := by decide +kernel

/-- A pending image that differs from the table in effect and passes R164. -/
def staged : State := { quiet .normal with pendingImage := { img with site := { fallbackSite with eMax := 200 } } }

/-- Reports and captures, a commit, a reset that may tear its write, a table write, a selection and a blocked landing. -/
theorem witness_RecordsAndSettingsFrame :
    runs (.status 0 (report 0x20 5)) served (fun t => t.body 0 ≠ served.body 0) ∧
    runs (.source 1#8 0#8) (quiet .normal) (fun t => t.body 1 ≠ (quiet .normal).body 1) ∧
    (∃ t, exec .deviceReset { quiet .normal with stored := some ⟨img, 0⟩, written := some 195 } = .next t) ∧
    runs (.tableCommit 0#8) staged (fun t => t.stored.isSome && decide (t.table ≠ staged.table)) ∧
    runs (.tableWrite 8#8 (staged.table.read (.car 9))) staged (fun t => t.pendingImage ≠ staged.pendingImage) ∧
    runs (.select 0#8 9#8) staged (fun t => t.selection ≠ staged.selection) ∧
    runs (.block 0#8 5#8) staged (fun t => t.blocked ≠ staged.blocked) :=
  ⟨by decide +kernel, by decide +kernel, ⟨_, rfl⟩, by decide +kernel, by decide +kernel, by decide +kernel, by decide +kernel⟩

/-- A group message, a RETRY, a car's timer, and settings. -/
theorem witness_CommandsSpareCars :
    served.fallback = none ∧ runs (.status 0 (report 0x20 5)) served ∧ runs (.request 0 0#8 8#8) served ∧
    runs (.retry 2#8) recalled2 ∧ runs (.startTimerExpiry 1) busy ∧ runs (.capacity 100#16 0#16) busy ∧
    runs .filterTimerExpiry { busy with filterTimer := some 260 } ∧ runs .openAExpiry busy := by decide +kernel

/-! ### Witnesses: frames and figures -/

/-- A frame that its port takes, and one of another link's code. -/
theorem witness_FramesRoundTrip :
    (encodeFrame (.retry 47#8)).isSome = true ∧ (Instr.retry 47#8).wellFormed = true ∧
    (decodeFrame (.link .panel) [0xA5#8, 0x01#8, 0x44#8, 0x2F#8, 0xEF#8, 0x29#8]).isSome = true ∧
    (decodeFrame (.link .power) [0xA5#8, 0x01#8, 0x44#8, 0x2F#8, 0xEF#8, 0x29#8]).isSome = true := by decide +kernel

theorem witness_LocateFigures :
    (lift (some 80) none).car 19 = some { car with load := some 80, position := none } ∧
    ((lift (some 80) none).table.cars[19]).ranges = true ∧ ({ entry 19 .recall with destination := none } : Entry).destination = none := by
  decide +kernel

/-- One of each of the three cases of R49 that motor. -/
theorem witness_MotoringFigures :
    ((lift (some 45) (some 10)).table.cars[19]).b = 45 ∧ (45 < 100) ∧
    (lift (some 45) (some 10)).car 19 = some { car with load := some 45, position := some 10 } ∧
    (lift (some 80) (some 10)).car 19 = some { car with load := some 80, position := some 10 } ∧ 80 > 45 ∧ (40 : Landing) > 10 ∧
    (lift (some 0) (some 40)).car 19 = some { car with load := some 0, position := some 40 } ∧ 0 < 45 ∧ (10 : Landing) < 40 := by
  decide +kernel

/-- A run of unknown load; both cases of R49 that regenerate, with G at least 1 and G 0. -/
theorem witness_UnknownAndRegeneratingFigures :
    (lift none (some 10)).car 19 = some { car with load := none, position := some 10 } ∧ (10 : Landing) ≠ 40 ∧
    (lift (some 47) (some 40)).car 19 = some { car with load := some 47, position := some 40 } ∧ 47 > 45 ∧ 1 ≤ 60 * 4 * 70 / 10000 ∧
    (lift (some 46) (some 40)).car 19 = some { car with load := some 46, position := some 40 } ∧ 46 > 45 ∧ 60 * 2 * 70 / 10000 = 0 ∧
    (lift (some 0) (some 10)).car 19 = some { car with load := some 0, position := some 10 } ∧ 0 < 45 ∧ (40 : Landing) > 10 := by
  decide +kernel

theorem witness_FigureBounds :
    ((lift (some 80) (some 10)).figures { entry 19 .recall with destination := some 40 }).isSome = true ∧
    ((lift (some 80) (some 10)).table.cars[19]).ranges = true ∧
    (lift (some 80) none).car 19 = some { car with load := some 80, position := none } := by decide +kernel

/-- A stored table that passes, and one that does not; and a commit that a reset may tear. -/
theorem witness_ResetRestores :
    ({ served with stored := some ⟨img, crc16 img.contents⟩, written := some 195 } : State).written = some 195 ∧
    img.firstFailure = none ∧ ({ img with site := { fallbackSite with eMax := 0 } } : Image).firstFailure ≠ none := by decide +kernel

/-! ### Witnesses: group messages -/

/-- A configured car, a car that a report configures under the fallback table, and an absent car without it. -/
theorem witness_StatusWritesReport :
    (report 0x20 5).car.toNat = (0 : CarNo).val ∧ served.configured (carOf 0 0) = true ∧ (quiet .normal).configured (carOf 0 0) = true ∧
    State.reset.configured (carOf 0 0) = false ∧ State.reset.fallback.isSome = true ∧
    served.configured (carOf 1 0) = false ∧ served.fallback = none := by decide +kernel

/-- A STILL car, and cars OUT for reasons that an at-rest report ends. -/
theorem witness_StatusRestTest :
    (report 0x20 5).car.toNat = (0 : CarNo).val ∧ (report 0x20 5).flags.getLsbD 1 = false ∧ (report 0x20 5).flags.getLsbD 4 = false ∧
    (report 0x20 5).flags.getLsbD 5 = true ∧ (report 0x20 5).position.toNat < 128 ∧ (report 0x20 5).flags.getLsbD 0 = false ∧
    (∀ p ∈ [Phase.startup, .normal, .outage, .takeover],
      (three (bare p) car car { car with motion := .out .fault }).car (carOf 0 0) = some car ∧
      (three (bare p) car car { car with motion := .out .fault }).car (carOf 0 2) = some { car with motion := .out .fault } ∧
      (three (bare p) { car with motion := .out .runTimeout } car car).car (carOf 0 0) = some { car with motion := .out .runTimeout } ∧
      (three (bare p) car car car).runOf 0 = none ∧ (three (bare p) car car car).waitsOf 0 = []) ∧
    car.motion = .still ∧ car.member = none ∧ car.pending = none := by decide +kernel

/-- RECALL: car 0 is OUT. -/
def outOf (why : OutReason) : State := three (bare .recall) { car with step := .recallDue, motion := .out why } car car

/-- Reports that do not end the reason: one without power, a stranded one. -/
theorem witness_StatusRestTest_stays_out :
    (∀ why ∈ [OutReason.unpowered, .runTimeout], (outOf why).Sound ∧
      (outOf why).car (carOf 0 0) = some { car with step := .recallDue, motion := .out why }) ∧
    (report 0x00 5).flags.getLsbD 4 = false ∧ (report 0x00 5).flags.getLsbD 5 = false ∧ 128 ≤ (report 0x20 128).position.toNat ∧
    (report 0x21 5).flags.getLsbD 4 = false ∧ (report 0x21 5).flags.getLsbD 0 = true := by
  refine ⟨fun why hw => ⟨three_sound ?_, ?_⟩, by decide⟩ <;> (revert why; decide +kernel)

/-- Car 0 is OUT in a phase, in a step; the landings given are blocked. -/
def leaving (p : Phase) (step : RecoveryStep) (why : OutReason) (blocked : List Landing) : State :=
  three { bare p with blocked := (Vector.replicate 6 []).set 0 blocked } { car with step := step, motion := .out why } car car

/-- Every reason that a powered report ends, in every step of the plan table of R137, in RECALL, SERVICE and PRE_TRANSFER; a car at its recall
landing, elsewhere, without one, and stranded; at rest and moving; and room for its idle load. -/
theorem witness_StatusRestTest_leaves :
    (∀ p ∈ [Phase.recall, .service, .preTransfer], ∀ step ∈ [RecoveryStep.awaiting, .dwell, .parked, .service, .shut],
      ∀ why ∈ [OutReason.link, .runTimeout], (leaving p step why []).Sound ∧
      (leaving p step why []).car (carOf 0 0) = some { car with step := step, motion := .out why } ∧
      (leaving p step why []).recallLanding 0 0 = some 0 ∧ (leaving p step why []).recallLanding 0 3 = some 0 ∧
      (leaving p step why []).bl + (leaving p step why []).ml + 5 ≤ (leaving p step why []).peak) ∧
    ((fallbackCar.i = 5) ∧ (leaving .recall .awaiting .link [0, 1]).recallLanding 0 3 = none) ∧
    (report 0x20 0).position.toNat = (0 : Landing).val ∧ (report 0x20 3).position.toNat = (3 : Landing).val ∧
    128 ≤ (report 0x20 128).position.toNat ∧ (report 0x20 3).flags.getLsbD 1 = false ∧ (report 0x22 3).flags.getLsbD 1 = true ∧
    (report 0x22 3).flags.getLsbD 4 = false ∧ (report 0x22 3).flags.getLsbD 5 = true ∧ (report 0x20 3).flags.getLsbD 3 = false := by
  refine ⟨fun p hp step hs why hw => ⟨three_sound ?_, ?_⟩, by decide +kernel, by decide⟩ <;> (revert p step why; decide +kernel)

/-- A car that leaves OUT (LINK) by its report: from DWELL to an entry elsewhere, from PARKED to PARK, from AWAITING to a dwell (R31, R137). -/
theorem test_leaving_out_is_planned :
    runs (.status 0 (report 0x20 3)) (leaving .service .dwell .link []) (fun t =>
      (t.entriesOf 0).map Entry.destination = [some 0] ∧ (.link (.group 0), .order 0 .stay 0) ∈ t.outbox) ∧
    runs (.status 0 (report 0x20 3)) (leaving .recall .parked .link []) (fun t =>
      (t.car 0).any (fun x => x.step = .parked ∧ x.motion = .still) ∧ (.link (.group 0), .order 0 .park 1) ∈ t.outbox) ∧
    runs (.status 0 (report 0x20 0)) (leaving .recall .awaiting .link []) (fun t => (t.car 0).any (fun x => x.step = .dwell)) := by
  decide +kernel

/-- The fallback table in RECALL, without car 0.3, whose first report configures it. -/
theorem witness_StatusRestTest_new_car :
    recalled.Coherent ∧ ({ recalled with fallback := some (.check, none) } : State).soundTest = true ∧
    ({ recalled with fallback := some (.check, none) } : State).car (carOf 0 3) = none ∧
    runs (.status 0 { report 0x20 0 with car := 3 }) { recalled with fallback := some (.check, none) } (fun t =>
      (t.car 3).any (fun x => x.step = .dwell) ∧ (.link (.group 0), .order 3 .stay 0) ∈ t.outbox) :=
  ⟨recalled_sound.2.2.2.2, by decide +kernel⟩

/-- The report of car 1. -/
def report1 (flags position : Byte) : StatusBytes := { report flags position with car := 1 }

/-- A car with a run, one with an entry, one with a waiting permit; fault, at rest and moving; no power, of cars that are not OUT and of one
that is OUT (LINK), without an order. -/
theorem witness_StatusOut :
    busy.Sound ∧ served.Sound ∧ (report 0x10 5).flags.getLsbD 4 = true ∧ (report 0x10 5).car.toNat = (0 : CarNo).val ∧
    (busy.car (carOf 0 0)).any (fun x => x.run.isSome) = true ∧ (report1 0x10 5).car.toNat = (1 : CarNo).val ∧
    (served.car (carOf 0 1)).any (fun x => x.motion = .requested) = true ∧ (served.waitsOf (carOf 0 2)).length = 1 ∧
    (report 0x12 5).flags.getLsbD 4 = true ∧ (report 0x12 5).flags.getLsbD 1 = true ∧ served.standby = true ∧
    (served.car (carOf 0 0)).any (fun x => x.run = none ∧ x.unpermitted = false ∧ x.order = none ∧ x.motion.isOut = false) = true ∧
    (report 0x00 5).flags.getLsbD 4 = false ∧ (report 0x00 5).flags.getLsbD 5 = false ∧
    (three (bare .service) { car with motion := .out .link } idler idler).Sound ∧
    (three (bare .service) { car with motion := .out .link } idler idler).car (carOf 0 0) = some { car with motion := .out .link } :=
  ⟨busy_sound, served_sound, by decide, by decide, by decide +kernel, by decide, by decide +kernel, by decide +kernel, by decide, by decide,
    by decide +kernel, by decide +kernel, by decide, by decide, three_sound (by decide +kernel), by decide +kernel⟩

theorem witness_StatusUnpermitted :
    served.Sound ∧ (quiet .normal).Sound ∧ (report 0x22 5).car.toNat = (0 : CarNo).val ∧ (report 0x22 5).flags.getLsbD 1 = true ∧
    (report 0x22 5).flags.getLsbD 4 = false ∧ (report 0x22 5).flags.getLsbD 5 = true ∧
    (served.car (carOf 0 0)).any (fun x => x.run = none ∧ x.motion.isOut = false ∧ x.unpermitted = false) = true ∧ served.standby = true ∧
    ((quiet .normal).car (carOf 0 0)).any (fun x => x.run = none ∧ x.motion.isOut = false) = true ∧ (quiet .normal).standby = false :=
  ⟨served_sound, normal_sound, by decide +kernel⟩

/-- A PARKED car, a FIRE_RELEASED member, a SHUT one, and a POWERING member. -/
def parkedCar : Car := { car with step := .parked, order := some (.park .closed) }
def freed : Car := { car with step := .service, order := some .release, member := some .fireReleased, fire := true }
def shutCar : Car := { car with step := .shut, order := some .shut, powered := false }
def powering : Car := { shutCar with order := some .powerUp, member := some .powering }

/-- Each clause: reclaimed in SERVICE and RECALL; released for fire; the member whose flag clears, below the target and at it; and the
POWERING one in PRE_TRANSFER, under NONE and under its own selection. -/
theorem witness_StatusPlans :
    served.phase = .service ∧ (report 0x20 255).car.toNat = (0 : CarNo).val ∧
    (served.car (carOf 0 0)).any (fun x => x.step = .service ∧ x.motion = .still ∧ x.pending = none) = true ∧
    served.runOf (carOf 0 0) = none ∧ served.waitsOf (carOf 0 0) = [] ∧ served.entriesOf (carOf 0 0) = [] ∧
    (report 0x20 255).flags.getLsbD 1 = false ∧ (report 0x20 255).flags.getLsbD 4 = false ∧ (report 0x20 255).flags.getLsbD 5 = true ∧
    128 ≤ (report 0x20 128).position.toNat ∧ (report 0x21 5).flags.getLsbD 0 = true ∧
    (three (bare .recall) idler car car).phase = .recall ∧ (three (bare .recall) idler car car).car (carOf 0 0) = some idler ∧
    (report 0x28 5).flags.getLsbD 3 = true ∧ (report 0x28 5).position.toNat < 128 ∧ (report 0x28 5).flags.getLsbD 0 = false ∧
    (∀ p ∈ [Phase.recall, .service], (serving p parkedCar .auto 0 false).Sound ∧
      (serving p parkedCar .auto 0 false).car (carOf 0 0) = some parkedCar) ∧
    (report 0x20 5).flags.getLsbD 3 = false ∧
    (∀ count ∈ [0, 1], ∀ shut, (serving .service freed .auto count shut).Sound ∧
      (serving .service freed .auto count shut).car (carOf 0 0) = some freed ∧
      (serving .service freed .auto count shut).setCount 0 = 0 ∧ (serving .service freed .auto count shut).setTarget 0 = count ∧
      0 ∈ (serving .service freed .auto count shut).setCandidates 0) ∧
    ∀ y ∈ [(Phase.preTransfer, Selection.auto), (.service, .nobody), (.service, .car 0)],
      (serving y.1 powering y.2 0 false).Sound ∧ (serving y.1 powering y.2 0 false).phase = y.1 ∧
      (serving y.1 powering y.2 0 false).selection[(0 : GroupNo)] = y.2 ∧
      (serving y.1 powering y.2 0 false).car (carOf 0 0) = some powering ∧ (serving y.1 powering y.2 0 false).setCount 0 = 1 ∧
      (serving y.1 powering y.2 0 false).bl + (serving y.1 powering y.2 0 false).ml +
        ((serving y.1 powering y.2 0 false).table.cars[carOf 0 0]).i ≤ (serving y.1 powering y.2 0 false).peak ∧
      (serving y.1 powering y.2 0 false).rl ≤ (serving y.1 powering y.2 0 false).absorbRoom := by
  refine ⟨rfl, by decide, by decide +kernel, by decide +kernel, by decide +kernel, by decide +kernel, by decide, by decide, by decide,
    by decide, by decide, rfl, by decide +kernel, by decide, by decide, by decide, fun p hp => ⟨three_sound ?_, ?_⟩, by decide,
    fun count hc shut => ⟨three_sound ?_, ?_⟩, fun y hy => ⟨three_sound ?_, ?_⟩⟩
  · revert p; decide +kernel
  · revert p; decide +kernel
  · revert count shut; decide +kernel
  · revert count shut; decide +kernel
  · revert y; decide +kernel
  · revert y; decide +kernel

/-- A phase with car 0 as given. -/
def with0 (p : Phase) (c : Car) : State := three (bare p) c car car

/-- Cars without a holding: in RECALL_DUE at a landing and stranded, in DWELL at the recall landing, PARKED, and in step SERVICE. -/
def restCars : List Car :=
  [{ car with step := .recallDue }, { car with step := .recallDue, position := none, motion := .stranded },
    { car with step := .dwell, position := some 0, dwell := some 260 }, parkedCar, idler]

theorem with0_sound : ∀ p ∈ [Phase.recall, .service, .preTransfer], ∀ c ∈ restCars, (with0 p c).soundTest = true := by decide +kernel

/-- The at-rest reports of StatusPlans: each phase, each car, with a report that shows it stranded, at its recall landing and elsewhere, and
with one that repeats the place. -/
theorem witness_StatusPlans_at_rest :
    (∀ p ∈ [Phase.recall, .service, .preTransfer], ∀ c ∈ restCars, (with0 p c).Sound ∧ (with0 p c).car (carOf 0 0) = some c ∧
      (with0 p c).standby = true ∧ (c.motion = .still ∨ c.motion = .stranded) ∧ c.pending = none ∧ c.planDue = false ∧
      (with0 p c).recallLanding 0 0 = some 0 ∧ (with0 p c).recallLanding 0 5 = some 0) ∧
    (∀ l ∈ [255#8, 0#8, 5#8, 3#8], (report 0x20 l).Rests) ∧ (report 0x20 255).place = none ∧ (report 0x20 0).place = some 0 ∧
    (report 0x20 5).place = some 5 ∧ (report 0x20 3).place = some 3 ∧
    (∀ c ∈ restCars, (report 0x20 5).Moved c) ∧ ¬ (report 0x20 3).Moved idler ∧ idler.motion = .still ∧ idler.powered = true ∧
    idler.unpermitted = false ∧ idler.fire = (report 0x20 3).flags.getLsbD 3 ∧ (with0 .service idler).HoldsNoPermit (carOf 0 0) ∧
    (with0 .service idler).entriesOf (carOf 0 0) = [] := by
  refine ⟨fun p hp c hc => ⟨three_sound (with0_sound p hp c hc), ?_⟩, ?_, by decide, by decide, by decide, by decide, ?_, ?_, rfl, rfl, rfl,
    by decide, ⟨by decide +kernel, by decide +kernel⟩, by decide +kernel⟩
  · revert p c; decide +kernel
  · simp only [StatusBytes.Rests]; decide
  · simp only [StatusBytes.Moved]; decide
  · simp only [StatusBytes.Moved]; decide

/-- A run and its report, at rest and moving; the SHUT car that was sent POWER_UP, in OUTAGE and SETTLING. -/
theorem witness_StatusPlans_running_and_powered :
    busy.Sound ∧ (busy.car (carOf 0 0)).any (fun x => x.run.isSome ∧ x.powered = true ∧ x.unpermitted = false ∧ x.fire = false ∧
      x.pending = none) = true ∧ (report 0x22 5).flags.getLsbD 4 = false ∧ (report 0x20 5).flags.getLsbD 5 = true ∧
    ∀ p ∈ [Phase.outage, .takeover], (with0 p { powering with member := none }).Sound ∧
      (with0 p { powering with member := none }).overCommitted = false ∧ (with0 p { powering with member := none }).phase = p ∧
      (with0 p { powering with member := none }).car (carOf 0 0) = some { powering with member := none } ∧
      (report 0x20 3).flags.getLsbD 1 = false := by
  refine ⟨busy_sound, by decide +kernel, by decide, by decide, fun p hp => ⟨three_sound ?_, ?_⟩⟩ <;> (revert p; decide +kernel)

/-- The powered report after POWER_UP: PARKED with PARK in OUTAGE, PARKED without an order while SETTLING (R14, R27, assumption 31). -/
theorem test_powered_report_in_outage_and_while_settling :
    runs (.status 0 (report 0x20 3)) (with0 .outage { powering with member := none }) (fun t =>
      (t.car 0).any (fun x => x.step = .parked) ∧ t.outbox.contains (.link (.group 0), .order 0 .park 1)) ∧
    runs (.status 0 (report 0x20 3)) (with0 .takeover { powering with member := none }) (fun t =>
      (t.car 0).any (fun x => x.step = .parked ∧ x.order = some .powerUp) ∧ t.outbox.all fun m => m.1 ≠ .link (.group 0)) := by
  decide +kernel

/-- CAPACITY takes the absorb capacity away: the episode that opens ends at once, for its only REGEN permit is shed, and the end of the
episode makes a fill, though E, BL and ML are as they were (R64, R66, R148). -/
theorem test_fill_after_an_episode_within_one_event :
    runs (.capacity 500#16 0#16) (three { bare .service with
        selection := (Vector.replicate 6 .auto).set 0 (.car 0), queue := [⟨2, { permit .service with kind := .regen }⟩] }
      { car with step := .parked } idler { idler with motion := .granted }) (fun t =>
      t.episode = .closed && t.queue = [] && t.rl = 0 && (t.car 0).any (fun x => x.step = .service ∧ x.member = some .ordinary)) := by
  decide +kernel

/-- A FIRE_RELEASED member that becomes ORDINARY does not leave the set, and no fill follows (R148): car 1 stays PARKED. -/
theorem test_member_that_becomes_ordinary_makes_no_fill :
    runs (.status 0 (report 0x20 5)) (serving .service freed .auto 2 false) (fun t =>
      (t.car 0).any (fun x => x.member = some .ordinary) && (t.car 1).any (fun x => x.step = .parked ∧ x.member = none)) := by decide +kernel

/-- A phase in which car 1 has a RECALL entry for a destination. -/
def fetching (p : Phase) (d : Option Landing) : State :=
  three { bare p with requests := (Vector.replicate 6 []).set 0 [{ entry 1 .recall with destination := d }] } car
    { car with step := .recallDue, motion := .requested } car

theorem fetching_sound : ∀ p ∈ [Phase.recall, .preTransfer], ∀ d ∈ [none, some (0 : Landing), some 5], (fetching p d).soundTest = true := by
  decide +kernel

/-- A SERVICE entry and a SERVICE permit for landing 8, and RECALL entries for no landing, for the recall landing and for another, each of a
car that rests nowhere, at landing 5, and at the destination. -/
theorem witness_StatusOfWaiting :
    served.Sound ∧ (report1 0x20 8).car.toNat = (1 : CarNo).val ∧
    (served.car (carOf 0 1)).any (fun x => x.pending = none ∧ x.unpermitted = false ∧ x.powered = true ∧ x.fire = false ∧ x.step = .service) = true ∧
    (∀ p ∈ [255#8, 8#8, 5#8], (report1 0x20 p).flags.getLsbD 1 = false ∧ (report1 0x20 p).flags.getLsbD 4 = false ∧
      (report1 0x20 p).flags.getLsbD 5 = true ∧ (report1 0x20 p).flags.getLsbD 0 = false) ∧
    served.entriesOf (carOf 0 1) = [entry 1 .service] ∧ (entry 1 .service).destination = some 8 ∧ (8#8).toNat = (8 : Landing).val ∧
    served.waitsOf (carOf 0 2) = [⟨2, permit .service⟩] ∧ (permit .service).destination = some 8 ∧
    (∀ p ∈ [Phase.recall, .preTransfer], ∀ d ∈ [none, some (0 : Landing), some 5], (fetching p d).Sound ∧
      (fetching p d).entriesOf (carOf 0 1) = [{ entry 1 .recall with destination := d }] ∧
      ((fetching p d).car (carOf 0 1)).any (fun x => x.pending = none ∧ x.unpermitted = false ∧ x.powered = true ∧ x.fire = false) = true ∧
      (fetching p d).recallLanding 0 0 = some 0 ∧ (fetching p d).recallLanding 0 5 = some 0) :=
  ⟨served_sound, by decide, by decide +kernel, by decide, by decide +kernel, by decide, by decide, by decide +kernel, by decide,
    fun p hp d hd => ⟨three_sound (fetching_sound p hp d hd), by revert p d; decide +kernel⟩⟩

/-- A STILL car and a REQUESTED one, at the lowest and the highest landing of the range; and one state for each test of R84. -/
theorem witness_Requests :
    (0#8).toNat = (0 : CarNo).val ∧ served.car (carOf 0 0) = some { idler with member := some .ordinary } ∧
    served.car (carOf 0 1) = some { idler with motion := .requested } ∧ served.phase = .service ∧ idler.owner = .group ∧
    idler.position = some 3 ∧ (20#8).toNat = (20 : Landing).val ∧ (served.table.groups[(0 : GroupNo)]).lowest = 0 ∧
    (served.table.groups[(0 : GroupNo)]).highest = 20 ∧ (3 : Landing) ≠ 20 ∧ (0#8).toNat = (0 : Landing).val ∧ (3 : Landing) ≠ 0 ∧
    served.runOf 0 = none ∧ served.waitsOf 0 = [] ∧ served.runOf 1 = none ∧ served.waitsOf 1 = [] ∧
    (∀ e ∈ served.requests[(0 : GroupNo)], e.arrival ≤ served.now / 2) ∧ served.entriesOf 0 = [] ∧
    (∀ c : CarNo, (8#8).toNat = c.val → served.car (carOf 0 c) = none) ∧ served.car (carOf 0 7) = none ∧
    (quiet .normal).car (carOf 0 0) = some car ∧ (quiet .normal).phase = .normal ∧
    (three (bare .service) { car with step := .parked } car car).car (carOf 0 0) = some { car with step := .parked } ∧
    ({ car with step := .parked } : Car).owner ≠ .group ∧
    (three (bare .service) { idler with motion := .stranded } car car).car (carOf 0 0) = some { idler with motion := .stranded } ∧
    (busy.car (carOf 0 0)).any (fun x => x.owner = .group ∧ x.motion = .running ∧ x.position.isSome) = true ∧
    (served.car (carOf 0 0)).any (fun x => x.owner = .group ∧ x.motion = .still ∧ x.position.map Fin.val = some (3#8).toNat) = true ∧
    (served.table.groups[(0 : GroupNo)]).highest < (21#8).toNat := by
  have absent : ∀ c : CarNo, (8#8).toNat = c.val → served.car (carOf 0 c) = none := fun c hc => absurd c.isLt (by rw [← hc]; decide)
  simp only [eq_true absent, true_and]
  decide +kernel

theorem witness_Withdraws :
    (1#8).toNat = (1 : CarNo).val ∧ (served.car (carOf 0 1)).any (fun x => x.owner = .group ∧ x.run = none ∧ x.motion = .requested) = true ∧
    served.entriesOf 1 ≠ [] ∧ served.waitsOf 1 = [] ∧
    (served.car (carOf 0 2)).any (fun x => x.owner = .group ∧ x.run = none ∧ x.motion = .granted) = true ∧ served.entriesOf 2 = [] ∧
    served.waitsOf 2 = [⟨2, permit .service⟩] ∧
    (∀ c : CarNo, (8#8).toNat = c.val → served.car (carOf 0 c) = none) ∧
    (recalled.car (carOf 0 0)).any (fun x => x.owner ≠ .group) = true ∧
    (busy.car (carOf 0 0)).any (fun x => x.owner = .group ∧ x.motion = .running) = true ∧
    (busy.car (carOf 0 1)).any (fun x => x.owner = .group ∧ x.motion = .starting) = true ∧
    (served.car (carOf 0 0)).any (fun x => x.owner = .group ∧ x.motion.supervised = false) = true ∧ served.entriesOf 0 = [] ∧
    served.waitsOf 0 = [] := by
  refine ⟨by decide, by decide +kernel, by decide +kernel, by decide +kernel, by decide +kernel, by decide +kernel, by decide +kernel,
    fun c hc => absurd c.isLt (by rw [← hc]; decide), ?_⟩
  decide +kernel

/-- A run in STARTED-WAIT, one that is RUNNING, one in GRACE. -/
theorem witness_StartedRuns :
    busy.Sound ∧ (1#8).toNat = (1 : CarNo).val ∧
    busy.car (carOf 0 1) = some (runner .service .service (.startedWait 260)) ∧
    busy.car (carOf 0 0) = some (runner .service .service (.running 260)) ∧
    busy.car (carOf 0 2) = some (runner .service .service (.grace .runTimeout 260)) ∧
    (runner .service .service (.startedWait 260)).motion.supervised = true ∧
    (runner .service .service (.running 260)).motion.supervised = true ∧
    (runner .service .service (.grace .runTimeout 260)).motion.supervised = true :=
  ⟨busy_sound, by decide +kernel⟩

/-- SERVICE: a run that is curtailed with PARK_AFTER. -/
def curtailed : State :=
  three (bare .service)
    { runner .service .service (.running 260) with
      motion := .stopping, pending := some ⟨.curtail, ⟨true, false, false⟩, .service, some 8⟩ } idler car

/-- A SERVICE run that is curtailed with REREQUEST_AFTER, in SERVICE and in PRE_TRANSFER. -/
def rerequesting (p : Phase) : State :=
  three (bare p)
    { runner .service .service (.running 260) with
      motion := .stopping, pending := some ⟨.curtail, ⟨false, false, true⟩, .service, some 8⟩ } idler car

theorem rerequesting_sound : ∀ p ∈ [Phase.service, .preTransfer], (rerequesting p).soundTest = true := by decide +kernel

/-- RECALL: car 0, given up during its run, has taken a RETRY. -/
def retried : State := three (bare .recall) (runner .recallDue .recall (.grace .runTimeout 260)) car car

/-- A SERVICE run, a RECALL run to its landing, one of a car that took a RETRY, and runs curtailed with each follow-up, with ARRIVED at the
destination and elsewhere. -/
theorem witness_ArrivedEndsRun :
    (8#8).toNat = (8 : Landing).val ∧ (0#8).toNat = (0 : Landing).val ∧
    (busy.car (carOf 0 0)).any (fun x => x.run.isSome ∧ x.pending = none ∧ x.step = .service) = true ∧ busy.waitsOf 0 = [] ∧
    (recalled.car (carOf 0 1)).any (fun x => x.run.isSome ∧ x.pending = none ∧ x.step = .recalling) = true ∧ recalled.waitsOf 1 = [] ∧
    recalled.recallLanding 0 0 = some 0 ∧
    curtailed.Sound ∧ (curtailed.car (carOf 0 0)).any (fun x => x.run.isSome ∧ x.step = .service ∧
      x.pending.any (fun a => a.kind ≠ .abandon ∧ a.flags.parkAfter = true)) = true ∧ curtailed.waitsOf 0 = [] ∧
    retried.Sound ∧ (retried.car (carOf 0 0)).any (fun x => x.run.any (fun r => r.permit.cls = .recall) ∧ x.pending = none ∧
      x.step = .recallDue) = true ∧ retried.waitsOf 0 = [] ∧ retried.recallLanding 0 0 = some 0 ∧
    ∀ p ∈ [Phase.service, .preTransfer], (rerequesting p).Sound ∧ (rerequesting p).waitsOf 0 = [] ∧ (rerequesting p).entriesOf 0 = [] ∧
      ((rerequesting p).car (carOf 0 0)).any (fun x => x.step = .service ∧ x.run.any (fun r => r.permit.cls ≠ .recall) ∧
        x.pending = some ⟨.curtail, ⟨false, false, true⟩, .service, some 8⟩) = true := by
  refine ⟨by decide, by decide, by decide +kernel, by decide +kernel, by decide +kernel, by decide +kernel, by decide +kernel,
    three_sound (by decide +kernel), by decide +kernel, by decide +kernel, three_sound (by decide +kernel), by decide +kernel,
    by decide +kernel, by decide +kernel, fun p hp => ⟨three_sound (rerequesting_sound p hp), ?_⟩⟩
  revert p
  decide +kernel

/-- Landing 1 is blocked: car 0 has an entry for landing 0, car 2 dwells there; another group's car is to come. -/
def cornered (p : Phase) : State :=
  let s := { withEntry (bare p) (entry 0 .recall) with
    blocked := (Vector.replicate 6 []).set 0 [1], selection := Vector.replicate 6 .nobody, groupOrder := [0, 1] }
  let t := { s.table with
    groups := s.table.groups.set 1 { fallbackGroup with configured := true, highest := 20, defaultAlternate := 1 },
    cars := s.table.cars.set 8 { fallbackCar with configured := true } }
  three (put { s with table := t } 8 { car with step := .awaiting }) { car with step := .recallDue, motion := .requested } car
    { car with step := .dwell, position := some 0, dwell := some 260 }

/-- Car 0 runs to its recall landing, and both recall landings are blocked; another group's car is to come. -/
def barred (p : Phase) : State :=
  let s := cornered p
  three { s with requests := Vector.replicate 6 [], blocked := (Vector.replicate 6 []).set 0 [0, 1] }
    (runner .recalling .recall (.running 260)) car { car with step := .parked }

/-- A RECALLING car that arrives at a landing that is not its recall landing, and one whose group's recall landings are both blocked. -/
theorem witness_ArrivedEndsRun_elsewhere :
    (8#8).toNat = (8 : Landing).val ∧ recalled.entriesOf 1 = [] ∧ recalled.waitsOf 1 = [] ∧ recalled.recallLanding 0 8 = some 0 ∧
    ∀ p ∈ [Phase.preTransfer, .recall, .service], (barred p).Sound ∧ (barred p).phase = p ∧ (barred p).recallLanding 0 8 = none ∧
      (barred p).overCommitted = false ∧ (barred p).entriesOf 0 = [] ∧ (barred p).waitsOf 0 = [] ∧
      (barred p).selection[(0 : GroupNo)] = .nobody ∧ ((barred p).table.groups[(0 : GroupNo)]).shutWhenParked = false ∧
      ((barred p).car 8).any (fun c => c.motion.isOut = false ∧ c.step = .awaiting) = true ∧
      ((barred p).car (carOf 0 0)).any (fun x => x.step = .recalling ∧ x.pending = none ∧ x.fire = false ∧
        x.run.any (fun r => r.permit.cls = .recall)) = true := by
  refine ⟨by decide, by decide +kernel, by decide +kernel, by decide +kernel, fun p hp => ⟨three_sound ?_, ?_⟩⟩ <;>
    (revert p; decide +kernel)

/-- A run that is stopped at landing 8 leaves the car RECALL_DUE with a new entry to its recall landing (R141). -/
theorem test_arrival_elsewhere_makes_an_entry :
    runs (.arrived 0 1#8 8#8) recalled (fun t => (t.car 1).any (fun x => x.step = .recallDue ∧ x.motion = .requested) &&
      decide ((t.entriesOf 1).map Entry.destination = [some 0])) := by decide +kernel

/-- A SERVICE run; RECALL runs below the maximum, at it, and in a GRACE that a timeout began. -/
def failing (attempts : Nat) (st : RunState) : State :=
  three (bare .recall) { runner .recalling .recall st with attempts := attempts } car car

theorem witness_HaltedFails :
    (busy.car (carOf 0 0)).any (fun x => x.run.any (fun r => r.permit.cls ≠ .recall) ∧ x.pending = none ∧ x.step = .service) = true ∧
    busy.waitsOf 0 = [] ∧ busy.entriesOf 0 = [] ∧ busy.table.site.attempts = 3 ∧
    (∀ x ∈ [(failing 1 (.running 260)), (failing 2 (.running 260)), (failing 2 (.grace .runTimeout 260))],
      (x.car (carOf 0 0)).any (fun c => c.run.any (fun r => r.permit.cls = .recall) ∧ c.pending = none ∧ c.step = .recalling) = true ∧
      x.waitsOf 0 = [] ∧ x.entriesOf 0 = [] ∧ x.table.site.attempts = 3 ∧ x.recallLanding 0 0 = some 0 ∧ x.recallLanding 0 3 = some 0) ∧
    128 ≤ (255#8).toNat ∧ (127#8).toNat < 128 ∧ (0#8).toNat = (0 : Landing).val ∧ (3#8).toNat = (3 : Landing).val := by
  decide +kernel

/-- ARRIVED at no landing counts an attempt of a RECALL run as HALTED does; 128 is the first byte that is none (R126, R127). -/
theorem witness_HaltedFails_arrived :
    128 ≤ (128#8).toNat ∧ runs (.arrived 0 0#8 128#8) (failing 1 (.running 260)) (fun t =>
      (t.car 0).any (fun x => x.run = none ∧ x.position = none ∧ x.attempts = 2 ∧ x.step = .recallDue)) := by decide +kernel

/-- A phase in which car 0 has a SERVICE run with a record of COMPLETE with RECLAIM_AFTER and the other flags as given. -/
def following (p : Phase) (park rerequest : Bool) : State :=
  with0 p { runner .service .service (.running 260) with pending := some ⟨.complete, ⟨park, true, rerequest⟩, .service, some 8⟩ }

theorem following_sound : ∀ p ∈ [Phase.recall, .service, .preTransfer], ∀ a b, (following p a b).soundTest = true := by decide +kernel

/-- HALTED of a SERVICE run in each phase, without a record and with each follow-up, at the destination, elsewhere, and nowhere. -/
theorem witness_HaltedFails_service_run :
    busy.Sound ∧ handing.Sound ∧ handing.standby = true ∧ (handing.car (carOf 0 1)).any (fun x => x.run.any (fun r => r.permit.cls = .service) ∧
      x.step = .service ∧ x.pending = none) = true ∧ handing.waitsOf 1 = [] ∧ handing.entriesOf 1 = [] ∧
    (8#8).toNat = (8 : Landing).val ∧ (3#8).toNat < 128 ∧ 128 ≤ (128#8).toNat ∧
    ∀ p ∈ [Phase.recall, .service, .preTransfer], ∀ a b, (following p a b).Sound ∧ (following p a b).phase = p ∧
      (following p a b).standby = true ∧ (following p a b).waitsOf 0 = [] ∧ (following p a b).entriesOf 0 = [] ∧
      ((following p a b).car (carOf 0 0)).any (fun x => x.step = .service ∧ x.run.any (fun r => r.permit.cls ≠ .recall) ∧
        x.pending = some ⟨.complete, ⟨a, true, b⟩, .service, some 8⟩) = true := by
  refine ⟨busy_sound, handing_sound, by decide +kernel, by decide +kernel, by decide +kernel, by decide +kernel, by decide, by decide,
    by decide, fun p hp a b => ⟨three_sound (following_sound p hp a b), ?_⟩⟩
  revert p a b
  decide +kernel

/-- A phase in which car 0 has the record of an ABANDON: of a RECALL run in RECALL_DUE, or of a SERVICE run with the follow-up flags. -/
def abandoned (p : Phase) (service park rerequest : Bool) : State :=
  with0 p { car with
    motion := .stranded, step := if service then .service else .recallDue,
    pending := some ⟨.abandon, ⟨park, false, rerequest⟩, if service then .service else .recall, some (if service then 8 else 0)⟩ }

/-- A RECALL run, and SERVICE runs with each flag and with none. -/
def abandonedCases : List (Bool × Bool × Bool) := [(false, false, false), (true, false, false), (true, true, false), (true, false, true)]

theorem abandoned_sound : ∀ p ∈ [Phase.recall, .service, .preTransfer], ∀ x ∈ abandonedCases,
    (abandoned p x.1 x.2.1 x.2.2).soundTest = true := by decide +kernel

/-- The first STATUS after an ABANDON, moving and at rest: at the destination, elsewhere, and nowhere. -/
theorem witness_HaltedFails_abandoned :
    (∀ p ∈ [Phase.recall, .service, .preTransfer], ∀ x ∈ abandonedCases, (abandoned p x.1 x.2.1 x.2.2).Sound ∧ (abandoned p x.1 x.2.1 x.2.2).phase = p ∧
      (abandoned p x.1 x.2.1 x.2.2).standby = true ∧ ((abandoned p x.1 x.2.1 x.2.2).car (carOf 0 0)).any (fun y => y.motion = .stranded ∧ y.fire = false ∧
        y.planDue = false ∧ y.pending.any (fun z => z.kind = .abandon ∧ z.flags.parkAfter = x.2.1 ∧ z.flags.rerequestAfter = x.2.2)) = true) ∧
    (∀ l ∈ [255#8, 8#8, 0#8], ∀ f ∈ [0x20#8, 0x22#8], (report f l).flags.getLsbD 4 = false ∧ (report f l).flags.getLsbD 5 = true) ∧
    (report 0x22 8).flags.getLsbD 1 = true ∧ (report 0x20 8).flags.getLsbD 1 = false ∧ (report 0x20 8).place = some 8 ∧
    (report 0x20 0).place = some 0 ∧ (report 0x20 255).place = none := by
  refine ⟨fun p hp x hx => ⟨three_sound (abandoned_sound p hp x hx), ?_⟩, by decide⟩
  revert p x
  decide +kernel

/-- RECLAIM_AFTER of a run that stops stranded, and an ABANDON's REREQUEST_AFTER at rest elsewhere (R97, R133, R143). -/
theorem test_follow_ups_of_halted_and_abandoned_runs :
    runs (.halted 0 0#8 255#8 0#8) (following .service false false) (fun t =>
      (t.car 0).any (fun x => x.step = .recallDue ∧ x.motion = .requested) ∧ (.link (.group 0), .order 0 .stay 0) ∈ t.outbox) ∧
    runs (.status 0 (report 0x20 5)) (abandoned .service true false true) (fun t =>
      (t.car 0).any (fun x => x.step = .service ∧ x.motion = .still ∧ x.pending = none) ∧
        (.link (.group 0), .refuse 0#8 .cancelled) ∈ t.outbox) := by decide +kernel

/-- Cars that rest, with an entry and with a waiting permit, OUT, and under an unpermitted-motion reservation, in SERVICE; and NORMAL. -/
theorem witness_LateReports :
    served.Sound ∧ served.standby = true ∧ (0#8).toNat = (0 : CarNo).val ∧ (2#8).toNat = (2 : CarNo).val ∧
    (served.car (carOf 0 0)).any (fun x => x.run = none ∧ x.unpermitted = false ∧ x.motion = .still) = true ∧
    (served.car (carOf 0 1)).any (fun x => x.run = none ∧ x.unpermitted = false) = true ∧
    served.entriesOf (carOf 0 1) = [entry 1 .service] ∧
    (served.car (carOf 0 2)).any (fun x => x.run = none ∧ x.unpermitted = false) = true ∧
    served.waitsOf (carOf 0 2) = [⟨2, permit .service⟩] ∧ (8#8).toNat = (8 : Landing).val ∧
    (three (bare .service) { car with motion := .out .fault } { car with motion := .stranded, unpermitted := true } idler).Sound ∧
    (quiet .normal).Sound ∧ (quiet .normal).standby = false ∧ (quiet .normal).phase.serves = false ∧
    ((quiet .normal).car (carOf 0 0)).any (fun x => x.run = none ∧ x.motion = .still) = true :=
  ⟨served_sound, by decide +kernel, by decide, by decide, by decide +kernel, by decide +kernel, by decide +kernel, by decide +kernel,
    by decide +kernel, by decide, three_sound (by decide +kernel), normal_sound, by decide +kernel, by decide +kernel, by decide +kernel⟩

/-! ### Witnesses: the power link -/

theorem witness_SourceNormal :
    (1#8).toNat < 2 ∧ (quiet .normal).phase = .normal ∧ (quiet .normal).Fresh ∧ served.phase ≠ .normal ∧ served.Sound ∧ handed.Sound :=
  ⟨by decide, by decide +kernel, normal_sound.1, by decide +kernel, served_sound, handed_sound⟩

theorem witness_SourceLost :
    (0#8).toNat < 2 ∧ (quiet .outage).Sound ∧ (quiet .outage).phase = .outage ∧ busy.Sound ∧ busy.phase ≠ .outage ∧
    served.Sound ∧ served.waiting ≠ [] :=
  ⟨by decide, outage_sound, by decide +kernel, busy_sound, by decide +kernel, served_sound, by decide +kernel⟩

/-- PRE_TRANSFER from NORMAL, before CLEAR and after it. -/
def handingNormal (sent : Bool) : State :=
  three { bare .preTransfer with
    blHeld := true, handshake := some ⟨.normal, sent, .closedTransition, false⟩, preTimer := if sent then none else some 300 } car car car

theorem handingNormal_sound : ∀ sent, (handingNormal sent).Sound
  | true => three_sound (by decide +kernel)
  | false => three_sound (by decide +kernel)

/-- PRE_TRANSFER from SERVICE, after CLEAR. -/
def cleared : State :=
  three { bare .preTransfer with handshake := some ⟨.service, true, .openTransition, false⟩, preTimer := none } car
    { car with step := .parked } idler

/-- BL is 0 and held when the phase is TAKEOVER again (R11, R14). -/
theorem test_takeover_again_has_no_idle_load :
    cleared.bl > 0 ∧ runs (.source 2#8 0#8) cleared (fun t => t.phase = .takeover ∧ t.bl = 0 ∧ t.blHeld = true) := by decide +kernel

theorem witness_SourceStandby :
    cleared.Sound ∧ cleared.handshake = some ⟨.service, true, .openTransition, false⟩ ∧
    (0#8).toNat < 2 ∧ settling.Sound ∧ settling.phase = .takeover ∧ recalled.Sound ∧ recalled.phase = .recall ∧ served.Sound ∧
    served.phase = .service ∧ (quiet .startup).Sound ∧ (quiet .startup).phase = .startup ∧ (quiet .startup).blHeld = true ∧
    (quiet .normal).Sound ∧ (quiet .outage).Sound ∧
    (∀ sent, (handingNormal sent).Sound) ∧ (handingNormal true).handshake = some ⟨.normal, true, .closedTransition, false⟩ ∧
    (handingNormal false).handshake = some ⟨.normal, false, .closedTransition, false⟩ :=
  ⟨three_sound (by decide +kernel), rfl, by decide, settling_sound, rfl, recalled_sound, rfl, served_sound, rfl, startup_sound, rfl, rfl,
    normal_sound, outage_sound, handingNormal_sound, rfl, rfl⟩

theorem witness_SourcePreTransfer :
    TransKind.openTransition.code = (0#8).toNat ∧ TransKind.closedTransition.code = (1#8).toNat ∧
    (quiet .startup).Sound ∧ (quiet .outage).Sound ∧ (quiet .normal).Sound ∧ settling.Sound ∧ served.Sound ∧
    (∃ w ∈ served.waiting, w.permit.cls ≠ .recall) ∧ recalled2.Sound ∧ (∃ w ∈ recalled2.waiting, w.permit.cls = .recall) ∧
    (recalled2.car 1).any (fun c => c.unpermitted = false ∧ c.position = some 3 ∧ c.between = false) = true ∧
    recalled2.recallLanding 0 3 = some 0 ∧ busy.Sound ∧
    (busy.runOf 0).any (fun r => r.state.inFlight) = true ∧ (busy.runOf 2).any (fun r => !r.state.inFlight) = true ∧
    busy.powerLink.up = true ∧ handing.Sound ∧ handing.handshake.isSome = true ∧ handing.powerLink.up = true :=
  ⟨by decide, by decide, startup_sound, outage_sound, normal_sound, settling_sound, served_sound,
    by decide +kernel, recalled2_sound, by decide +kernel, by decide +kernel, by decide +kernel, busy_sound, by decide +kernel, by decide +kernel,
    by decide +kernel, handing_sound, by decide +kernel, by decide +kernel⟩

/-- PRE_TRANSFER from TAKEOVER, RECALL and SERVICE. -/
def handingFrom (r : Remembered) : State :=
  three { bare .preTransfer with blHeld := r = .takeover, handshake := some ⟨r, false, .closedTransition, false⟩ } car
    { car with step := .parked } car

/-- For SourcePreTransfer, SilenceExpiry, TripAbandons, RunTimers and RetryPlans, where the car stands at its recall landing. -/
theorem witness_at_the_recall_landing :
    inPlace.Sound ∧ inPlace.recallLanding 0 0 = some 0 ∧ (∃ w ∈ inPlace.waiting, w.car = 1 ∧ w.permit.cls = .recall) ∧
    (inPlace.car 1).any (fun c => c.unpermitted = false ∧ c.between = false ∧ c.position = some 0) = true ∧
    (inPlace.runOf 0).any (fun r => r.permit.cls = .recall ∧ r.state = .startedWait 260) = true ∧
    (inPlace.car 0).any (fun c => c.step = .recalling ∧ c.attempts = 0 ∧ c.between = false ∧ c.position = some 0) = true ∧
    (inPlace.car 2).any (fun c => c.step = .givenUp ∧ c.motion.isOut = false ∧ c.position = some 0) = true :=
  ⟨inPlace_sound, by decide +kernel⟩

/-- The entry to PRE_TRANSFER with every car at rest sends CLEAR, and a STANDBY that waits behind it finds CLEAR sent (R152, R156). -/
theorem test_clear_at_entry :
    nextIs (fun t => t.handshake = some ⟨.recall, true, .openTransition, false⟩ ∧ t.preTimer = none ∧
        (.link .power, .clear false .openTransition 0) ∈ t.outbox ∧ nextIs (fun u => u.phase = .takeover) (step t) = true)
      (step { three (bare .recall) car car { car with step := .parked } with pending := [.source 3#8 0#8, .source 2#8 0#8] }) = true := by
  decide +kernel

/-- The kind is replaced by OPEN, under which a trip is not read: CLEAR goes out (R151, R152). -/
theorem test_clear_at_a_replaced_kind :
    runs (.source 3#8 0#8) handed (fun t => t.handshake = some ⟨.service, true, .openTransition, false⟩ ∧
      t.outbox = [(.link .power, .clear false .openTransition 0)]) := by decide +kernel

/-- PRE_TRANSFER under kind OPEN with a car whose run is over and whose moving flag stands: its at-rest STATUS brings CLEAR (R152). -/
theorem test_clear_at_the_rest_report :
    runs (.status 0 (report 0x20 5)) (three { bare .preTransfer with handshake := some ⟨.service, false, .openTransition, false⟩ }
      { idler with moving := true } car car) (fun t => t.handshake = some ⟨.service, true, .openTransition, false⟩ ∧ t.preTimer = none ∧
      (.link .power, .clear false .openTransition 0) ∈ t.outbox) := by decide +kernel

/-- For SourcePreTransfer, TripAbandons and StrainFollowsLine: the condition holds at the entry, with the new kind, at a release. -/
theorem witness_CLEAR_in_an_event :
    recalled.Sound ∧ recalled.clearHolds .openTransition = false ∧ settling.Sound ∧ settling.clearHolds .closedTransition = true ∧
    (quiet .normal).Sound ∧ (quiet .normal).clearHolds .closedTransition = true ∧ handed.Sound ∧ handed.clearHolds .openTransition = true ∧
    handed.clearHolds .closedTransition = false ∧ handed.pacer ≠ .hold ∧
    ({ handed with trip := false, tripLine := false, filtered := true, strainLine := true } : State).soundTest = true ∧
    runs .strainReleased { handed with trip := false, tripLine := false, filtered := true, strainLine := true } (fun t =>
      t.outbox = [(.link .power, .clear false .closedTransition 0)]) := by
  refine ⟨recalled_sound, by decide +kernel, settling_sound, by decide +kernel, normal_sound, ?_⟩
  exact ⟨by decide +kernel, handed_sound, by decide +kernel⟩

/-- A source state and a transition kind outside their codes. -/
theorem witness_SourceAbort_discarded :
    4 < (5#8).toNat ∧ 1 < (2#8).toNat ∧ served.Fresh ∧ served.powerLink.up = true ∧ State.reset.handshake = none ∧
    runs (.source 5#8 0#8) served (fun t => t.phase = .service) ∧ runs (.source 0#8 2#8) served (fun t => t.phase = .service) :=
  ⟨by decide, by decide, served_sound.1, by decide +kernel, by decide +kernel, by decide +kernel, by decide +kernel⟩

/-- The return to RECALL with a car that holds it open, and with cars PARKED, GIVEN_UP and OUT, which is complete (R146, R155). -/
theorem witness_SourceAbort_recall :
    runs (.source 4#8 0#8) (handingFrom .recall) (fun t => t.phase = .recall) ∧
    (three { bare .preTransfer with handshake := some ⟨.recall, false, .closedTransition, false⟩ } parkedCar { car with step := .givenUp }
      { car with motion := .out .fault }).shapedTest = true ∧
    runs (.source 4#8 0#8) (three { bare .preTransfer with handshake := some ⟨.recall, false, .closedTransition, false⟩ } parkedCar
      { car with step := .givenUp } { car with motion := .out .fault }) (fun t => t.phase = .service ∧ t.window = .recallWindow) := by
  decide +kernel

/-- At rest at the recall landing, elsewhere, and nowhere. -/
def places : List Car := [{ car with position := some 0 }, car, { car with position := none, motion := .stranded }]

/-- PRE_TRANSFER from RECALL or SERVICE; car 0, whose plan waits for the return, is in a step. -/
def waitingPlan (r : Remembered) (c : Car) (step : RecoveryStep) : State :=
  three { bare .preTransfer with handshake := some ⟨r, false, .closedTransition, false⟩ } { c with step := step, planDue := true } car car

/-- A step of each kind in the table of R137. -/
def planSteps : List RecoveryStep := [.awaiting, .recalling, .service, .shut]

theorem waitingPlan_sound : ∀ r ∈ [Remembered.recall, .service], ∀ c ∈ places, ∀ step ∈ planSteps,
    (waitingPlan r c step).soundTest = true := by decide +kernel

/-- TAKEOVER, collecting, or PRE_TRANSFER from RECALL, with car 0 parked in place, which has a recall landing now. -/
def freedInPlace (p : Phase) : State :=
  let s := { bare p with takeover := if p = Phase.takeover then some ⟨.collecting, 210⟩ else none }
  three { s with
    handshake := if p = Phase.preTransfer then some ⟨.recall, false, .closedTransition, false⟩ else none }
    { parkedCar with noLanding := true, reported := true } car car

/-- A step of each kind in the table of R137 at each place; and a car that is freed from its place. -/
theorem witness_SourceAbort_plans :
    (∀ r ∈ [Remembered.recall, .service], ∀ c ∈ places, ∀ step ∈ planSteps,
      (waitingPlan r c step).Sound ∧ (waitingPlan r c step).handshake.any (fun h => h.remembered = r) = true ∧
      ((waitingPlan r c step).car 0).any (fun x => x.planDue = true ∧ x.step = step ∧ x.noLanding = false ∧ x.unpermitted = false ∧
        x.motion = if (if x.between then none else x.position).isSome = true then .still else .stranded) = true ∧
      (waitingPlan r c step).recallLanding 0 0 = some 0 ∧ (waitingPlan r c step).recallLanding 0 3 = some 0) ∧
    (freedInPlace .preTransfer).Sound ∧ ((freedInPlace .preTransfer).car 0).any (fun x => x.noLanding = true ∧ x.step = .parked ∧
      x.member = none ∧ x.motion = .still ∧ x.unpermitted = false ∧ x.position = some 3 ∧ x.between = false) = true ∧
    (freedInPlace .preTransfer).recallLanding 0 3 = some 0 ∧
    runs (.source 4#8 0#8) (freedInPlace .preTransfer) (fun t => (t.car 0).any (fun x => x.step = .recallDue ∧ x.motion = .requested) ∧
      t.phase = .recall) := by
  refine ⟨fun r hr c hc step hs => ⟨three_sound (waitingPlan_sound r hr c hc step hs), ?_⟩, three_sound (by decide +kernel), by decide +kernel⟩
  revert r c step
  decide +kernel

theorem witness_SourceAbort :
    (0#8).toNat < 2 ∧ served.Sound ∧ served.phase ≠ .preTransfer ∧ (handingNormal false).Shaped ∧
    ∀ r ∈ [Remembered.takeover, .recall, .service],
      (handingFrom r).shapedTest = true ∧ (handingFrom r).handshake = some ⟨r, false, .closedTransition, false⟩ :=
  ⟨by decide, served_sound, by decide +kernel, (handingNormal_sound false).2.1, by decide +kernel⟩

theorem witness_CapacityAndProfile :
    served.powerLink.up = true ∧ served.Fresh ∧ served.clamp = false ∧ (500#16).toNat = served.offered ∧
    (100#16).toNat = served.absorb ∧ served.offered ≤ 4000 ∧ served.absorb ≤ 4000 ∧ served.pacer = .openA ∧ handing.powerLink.up = true ∧ handing.pacer = .halted ∧
    profileBytesOf ⟨9, 0, 0, 255, 255, 61, 26⟩ = ⟨.unified, 0, 1, 255, 255, 60, 25⟩ ∧
    profileBytesOf ⟨1, 0, 1, 0, 0, 9, 0⟩ = ⟨.split, 0, 1, 0, 1, 10, 0⟩ :=
  ⟨rfl, served_sound.1, by decide +kernel⟩

/-! ### Witnesses: the panel link -/

/-- SERVICE: car 0 is PARKED and STILL and no member. -/
def parkedOne : State := three (bare .service) { car with step := .parked } idler car

theorem witness_SelectSetsGroup :
    (∀ g : GroupNo, (6#8).toNat = g.val → (served.table.groups[g]).configured = false) ∧
    (0#8).toNat = (0 : GroupNo).val ∧ (served.table.groups[(0 : GroupNo)]).configured = true ∧ 9 < (10#8).toNat ∧
    (7#8).toNat = (7 : CarNo).val ∧ served.car (carOf 0 7) = none ∧
    parkedOne.Sound ∧ parkedOne.phase = .service ∧ (∀ w ∈ parkedOne.waiting, groupOf w.car ≠ 0) ∧
    (parkedOne.car (carOf 0 0)) = some { car with step := .parked } ∧ car.member = none ∧ car.motion = .still ∧
    (quiet .normal).Sound ∧ (quiet .normal).phase ≠ .service ∧ (8#8).toNat = 8 ∧ (9#8).toNat = 9 := by
  refine ⟨fun g hg => absurd g.isLt (by rw [← hg]; decide), by decide, by decide +kernel, by decide, by decide, by decide +kernel,
    three_sound (by decide +kernel), rfl, by decide +kernel, by decide +kernel, rfl, rfl, normal_sound, by decide +kernel, rfl, rfl⟩

/-- SERVICE: car 0 is SHUT, in a motion state, and so much is offered. -/
def shutOne (m : Motion) (offered : Nat) : State :=
  three { bare .service with offered := offered } { shutCar with motion := m } { car with step := .parked } { car with step := .parked }

/-- A SHUT car, OUT (UNPOWERED) too, where its idle load fits and where it does not; and a PARKED candidate of AUTO while the set is short,
at the head of the release order and behind a car in step SERVICE. -/
theorem witness_SelectSetsGroup_fills :
    (∀ m ∈ [Motion.still, .out .unpowered], ∀ offered ∈ [500, 12], (shutOne m offered).Sound ∧
      (shutOne m offered).car (carOf 0 0) = some { shutCar with motion := m } ∧ (shutOne m offered).episode = .closed ∧
      (∀ w ∈ (shutOne m offered).waiting, groupOf w.car ≠ 0) ∧
      ((shutOne m offered).bl + (shutOne m offered).ml + ((shutOne m offered).table.cars[carOf 0 0]).i ≤ (shutOne m offered).usable ↔
        offered = 500)) ∧
    (serving .service parkedCar .nobody 1 false).Sound ∧ (∀ w ∈ (serving .service parkedCar .nobody 1 false).waiting, groupOf w.car ≠ 0) ∧
    (serving .service parkedCar .nobody 1 false).car (carOf 0 0) = some parkedCar ∧
    ((serving .service parkedCar .nobody 1 false).table.groups[(0 : GroupNo)]).releaseOrder = [] ++ (0 : CarNo).val :: [1] ∧
    (serving .service parkedCar .nobody 1 false).setCount 0 = 0 ∧ (serving .service idler .nobody 1 false).Sound ∧
    (serving .service idler .nobody 1 false).car (carOf 0 0) = some idler ∧
    (serving .service idler .nobody 1 false).car (carOf 0 1) = some { car with step := .parked } ∧
    ((serving .service idler .nobody 1 false).table.groups[(0 : GroupNo)]).releaseOrder = [0] ++ (1 : CarNo).val :: [] := by
  refine ⟨fun m hm offered ho => ⟨three_sound ?_, ?_⟩, three_sound (by decide +kernel), by decide +kernel, by decide +kernel,
    by decide +kernel, by decide +kernel, three_sound (by decide +kernel), by decide +kernel, by decide +kernel, by decide +kernel⟩ <;>
  (revert m offered; decide +kernel)

/-- SERVICE: ORDINARY members that are STILL, REQUESTED and GRANTED; and one that runs, one STRANDED, and a POWERING member. -/
def dropping : State :=
  three { withEntry (bare .service) (entry 1 .service) with queue := [⟨2, permit .service⟩] } { idler with member := some .ordinary }
    { idler with motion := .requested, member := some .ordinary, fire := true } { idler with motion := .granted, member := some .ordinary }
def dropping2 : State :=
  three (bare .service) { runner .service .service (.running 260) with member := some .ordinary }
    { idler with motion := .stranded, position := none, member := some .ordinary } powering

/-- Each motion state of a dropped member, with its fire flag set and clear, under shut-when-parked too; NONE, CAR of another car and an AUTO
that does not name the car drop it (R149). -/
theorem witness_SelectSetsGroup_drops :
    (∀ s ∈ [dropping, dropping2], s.Sound ∧ s.phase = .service ∧ s.overCommitted = false ∧ (s.table.groups[(0 : GroupNo)]).releaseOrder = []) ∧
    dropping.car (carOf 0 0) = some { idler with member := some .ordinary } ∧
    dropping.car (carOf 0 1) = some { idler with motion := .requested, member := some .ordinary, fire := true } ∧
    dropping.car (carOf 0 2) = some { idler with motion := .granted, member := some .ordinary } ∧
    dropping2.car (carOf 0 0) = some { runner .service .service (.running 260) with member := some .ordinary } ∧
    dropping2.car (carOf 0 1) = some { idler with motion := .stranded, position := none, member := some .ordinary } ∧
    dropping2.car (carOf 0 2) = some powering ∧
    (serving .service { idler with member := some .ordinary } .auto 1 true).Sound ∧
    (serving .service { idler with member := some .ordinary } .auto 1 true).overCommitted = false ∧
    ((serving .service { idler with member := some .ordinary } .auto 1 true).table.groups[(0 : GroupNo)]).shutWhenParked = true := by
  refine ⟨fun s hs => ?_, by decide +kernel, by decide +kernel, by decide +kernel, by decide +kernel, by decide +kernel, by decide +kernel,
    three_sound (by decide +kernel), by decide +kernel, by decide +kernel⟩
  rcases List.mem_pair.mp hs with rfl | rfl
  · exact ⟨three_sound (by decide +kernel), by decide +kernel⟩
  · exact ⟨three_sound (by decide +kernel), by decide +kernel⟩

/-- SELECT NONE: the STILL member is PARKED, the REQUESTED one is FIRE_RELEASED for its fire flag, the run has its follow-ups, the stranded
car is reclaimed, the POWERING one stays SHUT (R148, R149). -/
theorem test_select_none_drops :
    runs (.select 0#8 9#8) dropping (fun t => (t.car 0).any (fun x => x.step = .parked ∧ x.member = none) ∧
      (t.car 1).any (fun x => x.step = .service ∧ x.member = some .fireReleased) ∧ (t.car 2).any (fun x => x.step = .parked) ∧
      t.queue = []) ∧
    runs (.select 0#8 9#8) dropping2 (fun t => (t.car 0).any (fun x => x.pending.any (fun a => a.flags = ⟨true, true, false⟩)) ∧
      (t.car 1).any (fun x => x.step = .recallDue ∧ x.motion = .requested) ∧
      t.car 2 = some { powering with member := none }) := by decide +kernel

/-- RECALL: car 0 has an entry for landing 0, car 1 dwells there, car 2 is parked in place between two blocked landings. -/
def blockedLandings : State :=
  three { withEntry (bare .recall) (entry 0 .recall) with blocked := (Vector.replicate 6 []).set 0 [1, 7] }
    { car with step := .recallDue, motion := .requested } { car with step := .dwell, position := some 0, dwell := some 260 }
    { car with step := .parked, noLanding := true }

theorem witness_BlockUnblock :
    (∀ g : GroupNo, (6#8).toNat = g.val → (served.table.groups[g]).configured = false) ∧ 128 ≤ (128#8).toNat ∧
    (0#8).toNat = (0 : GroupNo).val ∧ (blockedLandings.table.groups[(0 : GroupNo)]).configured = true ∧
    (1 : Landing) ∈ blockedLandings.blocked[(0 : GroupNo)] ∧ (1#8).toNat = (1 : Landing).val ∧
    ({ blockedLandings with blocked := Vector.replicate 6 [10, 11, 12, 13, 14, 15, 16, 17] }.blocked[(0 : GroupNo)]).length = 8 ∧
    (0 : Landing) ∉ served.blocked[(0 : GroupNo)] ∧ (served.blocked[(0 : GroupNo)]).length < 8 ∧ recalled.phase = .recall ∧
    recalled.entriesOf (carOf 0 0) = [entry 0 .recall] ∧ (entry 0 .recall).destination = some 0 ∧
    runs (.block 0#8 0#8) recalled (fun t => t.recallLanding 0 3 = some 1 ∧ t.recallLanding 0 0 = some 1) ∧
    (recalled.car (carOf 0 2)).any (fun y => y.step = .dwell ∧ y.position = some 0 ∧ y.between = false ∧ y.motion.isOut = false ∧
      y.run = none ∧ y.unpermitted = false) = true ∧ recalled.entriesOf 2 = [] ∧ recalled.waitsOf 2 = [] ∧
    blockedLandings.phase = .recall ∧
    runs (.unblock 0#8 1#8) blockedLandings (fun t => t.recallLanding 0 3 = some 0) ∧
    (blockedLandings.car (carOf 0 0)).any (fun y => y.step = .recallDue ∧ y.position = some 3) = true ∧
    blockedLandings.entriesOf 0 = [entry 0 .recall] ∧
    (blockedLandings.car (carOf 0 2)).any (fun y => y.noLanding = true ∧ y.step = .parked ∧ y.member = none ∧ y.motion = .still ∧
      y.between = false ∧ y.run = none ∧ y.unpermitted = false ∧ y.position = some 3) = true ∧
    blockedLandings.entriesOf 2 = [] ∧ blockedLandings.waitsOf 2 = [] ∧ (0 : Landing) ≠ 3 := by
  refine ⟨fun g hg => absurd g.isLt (by rw [← hg]; decide), ?_⟩
  decide +kernel

/-- RECALL: car 0 stands at landing 0, which is blocked, with an entry for landing 1. -/
def unblocking : State :=
  three { withEntry (bare .recall) { entry 0 .recall with destination := some 1 } with blocked := (Vector.replicate 6 []).set 0 [0] }
    { car with step := .recallDue, motion := .requested, position := some 0 } car car

theorem witness_BlockUnblock_in_place :
    unblocking.Sound ∧ (0 : Landing) ∈ unblocking.blocked[(0 : GroupNo)] ∧
    (unblocking.car (carOf 0 0)).any (fun y => y.step = .recallDue ∧ y.position = some 0 ∧ y.between = false) = true ∧
    unblocking.entriesOf (carOf 0 0) = [{ entry 0 .recall with destination := some 1 }] ∧
    runs (.unblock 0#8 0#8) unblocking (fun t => t.recallLanding 0 0 = some 0) :=
  ⟨three_sound (by decide +kernel), by decide +kernel⟩

/-- RECALL: car 1 has a permit that waits, for landing 0, and stands at landing 1. -/
def besideLanding : State :=
  three { bare .recall with queue := [⟨1, permit .recall⟩] } car { car with step := .recallDue, motion := .granted, position := some 1 } car

/-- Waiting permits away from the landing now given and at it; runs in flight and in GRACE. -/
theorem witness_BlockUnblock_permits :
    recalled2.Sound ∧ besideLanding.Sound ∧
    (∀ s ∈ [recalled2, besideLanding], s.phase = .recall ∧ s.waitsOf (carOf 0 1) = [⟨1, permit .recall⟩] ∧ s.entriesOf (carOf 0 1) = [] ∧
      (s.car (carOf 0 1)).any (fun y => y.run = none ∧ y.between = false ∧ y.unpermitted = false) = true ∧ (0 : Landing) ∉ s.blocked[(0 : GroupNo)]) ∧
    (permit .recall).destination = some 0 ∧ runs (.block 0#8 0#8) recalled2 (fun t => t.recallLanding 0 3 = some 1) ∧
    runs (.block 0#8 0#8) besideLanding (fun t => t.recallLanding 0 1 = some 1) ∧
    ∀ st ∈ [RunState.running 260, .startedWait 260, .grace .runTimeout 260], (failing 0 st).Sound ∧ (failing 0 st).phase = .recall ∧
      (failing 0 st).car (carOf 0 0) = some { runner .recalling .recall st with attempts := 0 } ∧ (failing 0 st).entriesOf (carOf 0 0) = [] ∧
      (failing 0 st).waitsOf (carOf 0 0) = [] ∧ runs (.block 0#8 0#8) (failing 0 st) (fun t => t.recallLanding 0 3 = some 1) := by
  refine ⟨recalled2_sound, three_sound (by decide +kernel), by decide +kernel, rfl, by decide +kernel, by decide +kernel,
    fun st hs => ⟨three_sound ?_, ?_⟩⟩ <;> (revert st; decide +kernel)

theorem cornered_sound : ∀ p ∈ [Phase.preTransfer, .recall, .service], (cornered p).soundTest = true := by decide +kernel

theorem witness_BlockUnblock_parked_in_place : ∀ p ∈ [Phase.preTransfer, .recall, .service], (cornered p).Sound ∧ (cornered p).phase = p ∧
    (cornered p).overCommitted = false ∧ (cornered p).entriesOf (carOf 0 0) = [entry 0 .recall] ∧ (cornered p).entriesOf (carOf 0 2) = [] ∧
    (cornered p).car (carOf 0 0) = some { car with step := .recallDue, motion := .requested } ∧
    (cornered p).car (carOf 0 2) = some { car with step := .dwell, position := some 0, dwell := some 260 } ∧
    (cornered p).waitsOf (carOf 0 0) = [] ∧ (cornered p).waitsOf (carOf 0 2) = [] ∧
    (cornered p).car 8 = some { car with step := .awaiting } ∧ (cornered p).selection[(0 : GroupNo)] = .nobody ∧
    ((cornered p).table.groups[(0 : GroupNo)]).shutWhenParked = false ∧
    runs (.block 0#8 0#8) (cornered p) (fun t => t.recallLanding 0 3 = none ∧ t.recallLanding 0 0 = none) := by
  intro p hp
  refine ⟨three_sound (cornered_sound p hp), ?_⟩
  revert p; decide +kernel

/-- A pacer that waits for RESTART. -/
def awaitingRestart (p : Phase) (trip : Bool) (settle : Nat) : State :=
  let s := bare p
  three { s with pacer := .waitRestart, trip := trip, tripLine := trip, profile := { s.profile with settleA := settle } } idler idler idler

theorem witness_RestartResumes :
    served.Sound ∧ served.pacer ≠ .waitRestart ∧ (awaitingRestart .service true 100).Sound ∧
    (awaitingRestart .service true 100).pacer = .waitRestart ∧ (awaitingRestart .service true 100).trip = true ∧
    (awaitingRestart .service false 100).Sound ∧ (awaitingRestart .service false 100).trip = false ∧
    (awaitingRestart .service false 100).filtered = false ∧ (awaitingRestart .service false 0).Sound ∧
    (awaitingRestart .takeover false 100).Sound :=
  ⟨served_sound, by decide +kernel, three_sound (by decide +kernel), rfl, rfl, three_sound (by decide +kernel), rfl, rfl,
    three_sound (by decide +kernel), three_sound (by decide +kernel)⟩

theorem witness_RetryPlans :
    (∀ n : CarName, (48#8).toNat = n.val → served.car n = none) ∧ (0#8).toNat = (0 : CarName).val ∧
    ((quiet .normal).car 0).isSome = true ∧ (quiet .normal).phase = .normal ∧
    (served.car 0).any (fun c => c.step ≠ .givenUp ∧ c.motion ≠ .out .runTimeout) = true ∧ served.phase = .service ∧
    recalled2.phase = .recall ∧ (2#8).toNat = (2 : CarName).val ∧
    (recalled2.car 2).any (fun c => c.step = .givenUp ∧ c.motion.isOut = false ∧ c.unpermitted = false ∧ c.position = some 3 ∧
      c.between = false) = true ∧ recalled2.runOf 2 = none ∧ recalled2.waitsOf 2 = [] ∧ recalled2.recallLanding 0 3 = some 0 ∧
    handed.phase = .preTransfer ∧ (handed.car 1).any (fun c => c.step = .givenUp) = true ∧ handed.runOf 1 = none ∧
    handed.waitsOf 1 = [] := by
  refine ⟨fun g hg => absurd g.isLt (by rw [← hg]; decide), ?_⟩
  decide +kernel

/-- A car OUT (RUN_TIMEOUT) in a step, in RECALL and SERVICE. -/
def timedOut (p : Phase) (c : Car) (step : RecoveryStep) : State := three (bare p) { c with step := step, motion := .out .runTimeout } car car

/-- Every step, at the recall landing, elsewhere, and stranded. -/
theorem witness_RetryPlans_timed_out : ∀ p ∈ [Phase.recall, .service],
    ∀ step ∈ [RecoveryStep.awaiting, .recallDue, .recalling, .dwell, .parked, .service, .shut, .normal],
    ∀ c ∈ [{ car with position := some 0 }, car, { car with between := true }, { car with position := none }],
      (timedOut p c step).phase = p ∧ (timedOut p c step).car 0 = some { c with step := step, motion := .out .runTimeout } ∧
      c.unpermitted = false ∧ (timedOut p c step).entriesOf 0 = [] ∧ (timedOut p c step).runOf 0 = none ∧ (timedOut p c step).waitsOf 0 = [] ∧
      (timedOut p c step).recallLanding 0 3 = some 0 ∧ (timedOut p c step).recallLanding 0 0 = some 0 := by decide +kernel

/-- A GIVEN_UP car at each place, at rest and OUT (RUN_TIMEOUT), in RECALL and SERVICE. -/
theorem witness_RetryPlans_given_up : ∀ p ∈ [Phase.recall, .service], ∀ c ∈ places, ∀ out : Bool,
    let x : Car := { c with step := .givenUp, attempts := 3, motion := if out then .out .runTimeout else c.motion }
    (with0 p x).Sound ∧ (with0 p x).phase = p ∧ (with0 p x).car 0 = some x ∧ x.unpermitted = false ∧
      (out = false → x.motion = if (if x.between then none else x.position).isSome = true then .still else .stranded) ∧
      (with0 p x).entriesOf 0 = [] ∧ (with0 p x).runOf 0 = none ∧ (with0 p x).waitsOf 0 = [] ∧
      (with0 p x).recallLanding 0 0 = some 0 ∧ (with0 p x).recallLanding 0 3 = some 0 := by
  refine fun p hp c hc out => ⟨three_sound ?_, ?_⟩ <;> (revert p c out; decide +kernel)

/-! ### Witnesses: the maintenance port, frames and links -/

theorem witness_TableWriteRead :
    served.Fresh ∧ served.phase ≠ .startup ∧ served.phase ≠ .normal ∧ (quiet .normal).Fresh ∧ (quiet .normal).phase = .normal ∧
    SectionName.ofByte 7#8 = none ∧ SectionName.ofByte 56#8 = none ∧ SectionName.ofByte 55#8 = some (.car 47) ∧
    SectionName.ofByte 1#8 = some (.group 0) ∧ SectionName.ofByte 0#8 = some .site ∧ ¬ (SectionName.car 47).Encodes [] ∧
    ¬ (SectionName.car 47).Encodes (2#8 :: List.replicate 7 0#8) ∧ (SectionName.car 47).Encodes (1#8 :: List.replicate 7 0#8) ∧
    SectionName.site.Encodes (img.read .site) ∧ (SectionName.group 0).Encodes (img.read (.group 0)) ∧
    ((img.read (.group 0)).drop 26).take 8 = List.replicate 8 255#8 ∧
    ((img.read (.group 0)).getD 42 0#8).toNat < 4 ∧
    (∀ i < 16, ((img.read (.group 0)).getD 3 0#8).toNat * 4 ≤ i → ((img.read (.group 0)).getD (4 + i) 0#8).toNat = 0) :=
  ⟨served_sound.1, by decide +kernel, by decide +kernel, normal_sound.1, by decide +kernel, by decide +kernel, by decide +kernel,
    by decide +kernel, by decide +kernel, by decide +kernel, (Image.write_isSome img _ _).not.mp (by decide +kernel),
    (Image.write_isSome img _ _).not.mp (by decide +kernel), (Image.write_isSome img _ _).mp (by decide +kernel),
    (Image.write_isSome img _ _).mp (by decide +kernel), (Image.write_isSome img _ _).mp (by decide +kernel), by decide +kernel⟩

/-- The image with group 0's section changed. -/
def img0 (f : GroupSection → GroupSection) : Image := { img with groups := img.groups.set 0 (f img.groups[(0 : GroupNo)]) }

/-- An image that passes, and for each of the seven items one whose first failure it is. -/
theorem witness_CommitChecks :
    img.firstFailure = none ∧
    ({ img with site := { fallbackSite with eMax := 0 } } : Image).firstFailure = some (.range, some .site) ∧
    (img0 fun y => { y with configured := false }).firstFailure = some (.noGroup, none) ∧
    ({ img with cars := img.cars.set 8 { fallbackCar with configured := true } } : Image).firstFailure = some (.noGroup, some (.car 8)) ∧
    (img0 fun y => { y with limit := 9, clip := 8 }).firstFailure = some (.clipBelowLimit, some (.group 0)) ∧
    (img0 fun y => { y with lowest := 21 }).firstFailure = some (.servedRange, some (.group 0)) ∧
    (img0 fun y => { y with zoneCount := 1, zonePlaces := ⟨4, 3, 0, 0⟩ :: y.zonePlaces.drop 1 }).firstFailure = some (.zone, some (.group 0)) ∧
    (img0 fun y => { y with defaultPrimary := 21 }).firstFailure = some (.recallLanding, some (.group 0)) ∧
    (img0 fun y => { y with releaseOrder := [0, 0] }).firstFailure = some (.releaseOrder, some (.group 0)) := by decide +kernel

theorem witness_TableCommit :
    served.Fresh ∧ served.phase ≠ .startup ∧ served.phase ≠ .normal ∧ (quiet .normal).Fresh ∧ (quiet .normal).phase = .normal ∧
    (quiet .normal).pendingImage.firstFailure = none ∧
    ({ quiet .normal with pendingImage := { img with site := { fallbackSite with eMax := 0 } } } : State).Fresh ∧
    ({ img with site := { fallbackSite with eMax := 0 } } : Image).firstFailure = some (.range, some .site) :=
  ⟨served_sound.1, by decide +kernel, by decide +kernel, normal_sound.1, by decide +kernel, by decide +kernel, by
    unfold State.Fresh; decide +kernel, by decide +kernel⟩

/-- A good frame that the link drops, and one that is not good. -/
theorem witness_DroppedFrame :
    served.Fresh ∧ served.powerLink.up = true ∧ isGood [0xA5#8, 0x01#8, 0x44#8, 0x2F#8, 0xEF#8, 0x29#8] = true ∧
    isGood [0xA5#8, 0x01#8, 0x44#8, 0x2F#8, 0x00#8, 0x00#8] = false :=
  ⟨served_sound.1, by decide +kernel⟩

/-- PRE_TRANSFER with the power link DOWN, the pre-transfer timer run out or not; car 0 rests or runs. -/
def cutOff (expired moves : Bool) : State :=
  three { bare .preTransfer with
      powerLink := ⟨false, none⟩, handshake := some ⟨.service, false, .openTransition, expired⟩,
      preTimer := if expired then none else some 300 }
    (if moves then runner .service .service (.running 260) else car) car car

theorem cutOff_sound : ∀ expired moves, (cutOff expired moves).soundTest = true := by decide +kernel

/-- Links that are DOWN: those of a group and of the panel under a trip that waits for RESTART, while a collection runs, and under the
fallback table; that of the power controller in SERVICE, and in PRE_TRANSFER with and without the CLEAR condition. -/
theorem witness_DroppedFrame_link_returns :
    (three { bare .service with groupLinks := (bare .service).groupLinks.set 0 ⟨false, none⟩ } { idler with order := some .shut } idler car).Sound ∧
    (three { bare .takeover with
      groupLinks := (bare .takeover).groupLinks.set 0 ⟨false, none⟩, takeover := some ⟨.collecting, 210⟩ } car car car).Sound ∧
    (three { bare .service with panelLink := ⟨false, none⟩, pacer := .waitRestart, trip := true, tripLine := true } idler idler car).Sound ∧
    State.reset.Fresh ∧ State.reset.fallback.isSome = true ∧ State.reset.panelLink.up = false ∧
    (three { bare .service with powerLink := ⟨false, none⟩ } idler idler car).Sound ∧
    ∀ expired moves, (cutOff expired moves).Sound ∧ (cutOff expired moves).powerLink.up = false ∧
      (cutOff expired moves).handshake = some ⟨.service, false, .openTransition, expired⟩ ∧
      (cutOff expired moves).clearCondition .openTransition = !moves := by
  refine ⟨three_sound (by decide +kernel), three_sound (by decide +kernel), three_sound (by decide +kernel), ?_, by decide +kernel,
    by decide +kernel, three_sound (by decide +kernel), fun expired moves => ⟨three_sound (cutOff_sound expired moves), ?_⟩⟩
  · unfold State.Fresh; decide +kernel
  · revert expired moves; decide +kernel

theorem witness_SilenceExpiry :
    recalled2.Sound ∧ (recalled2.groupLinks[(0 : GroupNo)]).silence = some 260 ∧
    (∃ w ∈ recalled2.waiting, groupOf w.car = 0 ∧ w.permit.cls = .recall) ∧
    (recalled2.car 1).any (fun c => c.unpermitted = false ∧ c.between = false ∧ c.position = some 3) = true ∧
    recalled2.recallLanding 0 3 = some 0 ∧ (recalled2.runOf 0).any (fun r => r.state.inFlight) = true ∧
    busy.Sound ∧ (busy.groupLinks[(0 : GroupNo)]).silence = some 260 ∧ (busy.runOf 2).any (fun r => !r.state.inFlight) = true ∧
    recalled2.phase = .recall ∧ runs (.silenceTimerExpiry (.group 0)) recalled2 (fun t =>
      (.link .panel, .alert (.linkLost 0 1 1)) ∈ t.outbox) ∧
    busy.powerLink.silence = some 300 ∧ busy.standby = true ∧ (quiet .normal).powerLink.silence = some 300 ∧
    (quiet .normal).standby = false ∧ (quiet .normal).Fresh ∧ (quiet .normal).panelLink.silence = some 260 :=
  ⟨recalled2_sound, by decide +kernel, by decide +kernel, by decide +kernel, by decide +kernel, by decide +kernel, busy_sound, by decide +kernel,
    by decide +kernel, by decide +kernel, by decide +kernel, by decide +kernel, by decide +kernel, by decide +kernel, by decide +kernel, normal_sound.1, by decide +kernel⟩

/-! ### Witnesses: the lines -/

/-- A phase with a pacer state, levels and timers of the strain machinery, and a filter time; car 0 has a run in RECALL and SERVICE. -/
def strained (p : Phase) (pacer : PacerState) (line filtered : Bool) (blank filter : Option Nat) (time : Nat) : State :=
  let s := { bare p with pacer := pacer, strainLine := line, filtered := filtered, blankTimer := blank, filterTimer := filter }
  three { s with table := { s.table with site := { s.table.site with filterTime := time, strainMode := .holdShed } } }
    (if p = .service then runner .service .service (.running 260) else car) car car

/-- One state for each clause, in their order. -/
theorem witness_StrainFollowsLine :
    (strained .service .openA false false (some 210) none 4).Sound ∧ (strained .service .openA false false none none 4).Sound ∧
    (strained .normal .halted false false none none 0).Sound ∧ (strained .normal .halted false false none none 0).standby = false ∧
    (strained .service .openA true false (some 210) none 4).Sound ∧ (strained .service .openA true false none (some 210) 4).Sound ∧
    (strained .service .hold true true none none 4).Sound ∧ (strained .service .hold true true none none 4).trip = false ∧
    0 < (strained .service .hold true true none none 4).profile.settleA ∧ (strained .normal .halted true false none (some 210) 4).Sound ∧
    (strained .service .openA true false none (some 210) 4).standby = true ∧
    (strained .service .openA true false none (some 210) 4).panelLink.up = true ∧
    ((strained .service .openA true false none (some 210) 4).car 0).any (fun c =>
      c.run.any (fun r => r.permit.cls = .service ∧ r.state.inFlight) ∧ c.pending = none) = true :=
  ⟨three_sound (by decide +kernel), three_sound (by decide +kernel), three_sound (by decide +kernel), rfl, three_sound (by decide +kernel),
    three_sound (by decide +kernel), three_sound (by decide +kernel), rfl, by decide, three_sound (by decide +kernel), rfl, rfl,
    by decide +kernel⟩

/-- Runs in flight and in GRACE, waiting permits of every class, and the release in HOLD. -/
theorem witness_TripAbandons :
    busy.Sound ∧ (busy.runOf 0).any (fun r => r.state.inFlight) = true ∧ (busy.runOf 2).any (fun r => !r.state.inFlight) = true ∧
    served.Sound ∧ (∃ w ∈ served.waiting, w.permit.cls ≠ .recall) ∧ recalled2.Sound ∧
    (∃ w ∈ recalled2.waiting, w.permit.cls = .recall) ∧
    (recalled2.car 1).any (fun c => c.unpermitted = false ∧ c.between = false ∧ c.position = some 3) = true ∧
    recalled2.recallLanding 0 3 = some 0 ∧ busy.panelLink.up = true ∧ busy.powerLink.up = true ∧
    (three { bare .takeover with pacer := .hold, trip := true, tripLine := true } idler idler idler).Sound ∧
    (three { bare .service with pacer := .hold, trip := true, tripLine := true } idler idler idler).Sound ∧
    0 < (bare .service).profile.settleA ∧ (bare .takeover).filtered = false ∧ (bare .service).filtered = false :=
  ⟨busy_sound, by decide +kernel, by decide +kernel, served_sound, by decide +kernel, recalled2_sound, by decide +kernel, by decide +kernel, by decide +kernel,
    by decide +kernel, by decide +kernel, three_sound (by decide +kernel), three_sound (by decide +kernel), by decide, rfl, rfl⟩

/-! ### Witnesses: the takeover and the handshake -/

theorem witness_TakeoverSequence :
    settling.Sound ∧ settling.takeover = some ⟨.settling, 210⟩ ∧ (settling.groupLinks[(0 : GroupNo)]).up = true ∧ collecting.Sound ∧
    collecting.takeover = some ⟨.collecting, 210⟩ ∧ collecting.powerLink.up = true ∧
    (collecting.car 2).any (fun c => c.motion.isOut = false ∧ c.reported = false) = true ∧
    (collecting.car 0).any (fun c => c.motion = .still ∧ c.reported = true ∧ c.step = .awaiting ∧ c.unpermitted = false ∧
      c.position = some 0 ∧ c.between = false) = true ∧ collecting.recallLanding 0 0 = some 0 ∧
    (collecting.car 1).any (fun c => c.motion = .still ∧ c.reported = true ∧ c.step = .awaiting ∧ c.unpermitted = false ∧
      c.position = some 3 ∧ c.between = false) = true ∧ collecting.recallLanding 0 3 = some 0 :=
  ⟨settling_sound, by decide +kernel, by decide +kernel, collecting_sound, by decide +kernel⟩

/-- TAKEOVER, collecting; car 0 is in a step, and car 1 is AWAITING and holds the recall open. -/
def resuming (c : Car) (step : RecoveryStep) (reported : Bool) : State :=
  three { bare .takeover with takeover := some ⟨.collecting, 210⟩ } { c with step := step, reported := reported }
    { car with step := .awaiting, reported := true } car

/-- Cars that the end of the collection plans, each step at each place, and cars that it does not plan: OUT, and not heard. -/
def resumeCases : List (Car × RecoveryStep × Bool) :=
  (places.flatMap fun c => [.awaiting, .dwell, .parked, .service, .shut, .givenUp].map fun step => (c, step, true)) ++
    [.parked, .shut, .dwell].flatMap fun step => [({ car with motion := .out .fault }, step, true), (car, step, false)]

theorem resuming_sound : ∀ x ∈ resumeCases, (resuming x.1 x.2.1 x.2.2).soundTest = true := by decide +kernel

/-- Every resume point of R137 at each place, of a car that has reported, and the cars that keep their course; figures that leave room for
the PARKED ones; and a car that is freed from its place. -/
theorem witness_TakeoverSequence_plans :
    (∀ x ∈ resumeCases, (resuming x.1 x.2.1 x.2.2).Sound ∧ (resuming x.1 x.2.1 x.2.2).takeover = some ⟨.collecting, 210⟩ ∧
      (resuming x.1 x.2.1 x.2.2).car 0 = some { x.1 with step := x.2.1, reported := x.2.2 } ∧
      (x.1.motion.isOut = false → x.1.unpermitted = false ∧
        x.1.motion = if (if x.1.between then none else x.1.position).isSome = true then .still else .stranded) ∧
      (resuming x.1 x.2.1 x.2.2).recallLanding 0 0 = some 0 ∧ (resuming x.1 x.2.1 x.2.2).recallLanding 0 3 = some 0) ∧
    (∀ x ∈ [(car, true), ({ car with motion := .out .fault }, true), (car, false)],
      runs .collectionTimerExpiry (resuming x.1 .parked x.2) (fun t => t.bl + t.ml ≤ t.peak ∧ t.phase = .recall ∧
        (t.car 0).any (fun y => y.step = .parked) ∧ (.link (.group 0), .order 0 .park 1) ∈ t.outbox) = true) ∧
    (freedInPlace .takeover).Sound ∧ ((freedInPlace .takeover).car 0).any (fun x => x.noLanding = true ∧ x.step = .parked ∧
      x.member = none ∧ x.reported = true) = true ∧ (freedInPlace .takeover).recallLanding 0 3 = some 0 := by
  refine ⟨fun x hx => ⟨three_sound (resuming_sound x hx), ?_⟩, by decide +kernel, three_sound (by decide +kernel), by decide +kernel⟩
  revert x
  decide +kernel

/-- TAKEOVER, collecting, with a recall that is complete once the cars are planned: PARKED, GIVEN_UP, and one that has not reported. -/
def collected : State :=
  three { bare .takeover with takeover := some ⟨.collecting, 210⟩ } { parkedCar with reported := true }
    { car with step := .givenUp, reported := true } { car with step := .awaiting }

theorem witness_TakeoverSequence_recall :
    collected.Sound ∧ collected.takeover = some ⟨.collecting, 210⟩ ∧
    runs .collectionTimerExpiry collected (fun t => t.phase = .service ∧ t.window = .recallWindow) ∧
    runs .collectionTimerExpiry collecting (fun t => t.phase = .recall) :=
  ⟨three_sound (by decide +kernel), rfl, by decide +kernel, by decide +kernel⟩

/-- Every car quiet under a trip that fails the condition for kind CLOSED and not for kind OPEN, and a run that is not quiet; the timer that
runs out in each, with the link UP and DOWN; events after which CLEAR counts as sent: the trip's release, and the forced clearance. -/
theorem witness_ClearAndTimer :
    handed.Sound ∧ handed.handshake = some ⟨.service, false, .closedTransition, false⟩ ∧ handed.phase = .preTransfer ∧ handed.trip = true ∧
    ({ handed with handshake := some ⟨.service, false, .openTransition, false⟩ } : State).refresh =
      { handed with handshake := some ⟨.service, false, .openTransition, false⟩ } ∧
    handed.powerLink.up = true ∧ handed.preTimer = some 300 ∧
    runs .tripReleased handed (fun t => t.handshake = some ⟨.service, true, .closedTransition, false⟩) ∧
    runs .preTransferTimerExpiry handed (fun t => t.handshake = some ⟨.service, true, .closedTransition, false⟩) ∧
    (∀ n c, handed.car n = some c → c.run = none ∧ c.moving = false ∧ c.unpermitted = false) ∧
    handing.Sound ∧ handing.handshake = some ⟨.service, false, .closedTransition, false⟩ ∧ (handing.runOf 1).isSome = true ∧
    (three { bare .preTransfer with powerLink := ⟨false, none⟩ } idler { car with step := .givenUp } { car with step := .parked }).Sound := by
  refine ⟨handed_sound, by decide +kernel, by decide +kernel, by decide +kernel, by decide +kernel, by decide +kernel, by decide +kernel,
    by decide +kernel, by decide +kernel, ?_, handing_sound, by decide +kernel, by decide +kernel, three_sound (by decide +kernel)⟩
  have h : (List.finRange 48).all (fun n => (handed.car n).all fun c =>
      decide (c.run = none ∧ c.moving = false ∧ c.unpermitted = false)) = true := by decide +kernel
  intro n c hc
  have := List.all_eq_true.mp h n (List.mem_finRange n)
  rw [hc] at this
  simpa using this

/-! ### Witnesses: accounts, windows, pacer, grant and admission -/

theorem witness_TickAndWindow :
    served.Fresh ∧ served.tickTimer = some 205 ∧ served.windowTimer = some 300 ∧ served.window ≠ .noWindow :=
  ⟨served_sound.1, by decide +kernel⟩

/-- SERVICE under SPLIT in a state of the cycle, with a second settle time that may be 0 and a profile that may be staged. -/
def split (p : PacerState) (settleB : Nat) (staged : Bool) : State :=
  let s := bare .service
  three { s with
    profile := { s.profile with mode := .split, settleB := settleB }, pacer := p, pacerTimer := some 210,
    staged := if staged then some { s.profile with settleA := 0 } else none } idler idler idler

theorem witness_PacerTimers :
    (split .settleA 100 false).Sound ∧ (split .openA 0 false).Sound ∧ (split .openA 100 false).Sound ∧ (split .settleB 100 false).Sound ∧
    (split .openB 100 false).Sound ∧ (split .openB 100 true).Sound ∧ (split .openB 100 true).staged.any (fun p => p.settleA = 0) = true ∧
    ∀ p k staged, (split p k staged).pacerTimer = some 210 ∧ (split p k staged).pacer = p :=
  ⟨three_sound (by decide +kernel), three_sound (by decide +kernel), three_sound (by decide +kernel), three_sound (by decide +kernel),
    three_sound (by decide +kernel), three_sound (by decide +kernel), by decide +kernel, fun _ _ _ => ⟨rfl, rfl⟩⟩

/-- RECALL with a FIRE candidate; SERVICE whose head is deferred by a RECALL grant. -/
def fired : State :=
  three (withEntry (bare .service) (entry 1 .fire)) idler { idler with motion := .requested, fire := true } car

def deferring : State :=
  let s := { withEntry (bare .service) (entry 0 .recall) with queue := [⟨2, permit .service⟩] }
  three { s with table := { s.table with site := { s.table.site with deferral := true } } }
    { car with step := .recallDue, motion := .requested } idler { idler with motion := .granted }

theorem witness_GrantMakesPermit :
    (quiet .normal).Sound ∧ (quiet .normal).phase ≠ .recall ∧ (quiet .normal).phase ≠ .service ∧
    served.Sound ∧ fired.Sound ∧ deferring.Sound ∧
    (∀ s ∈ [served, fired, deferring], s.phase = .service ∧ s.pacer = .openA ∧ s.queue.length < 4 ∧
      s.episode = .closed ∧ s.slot = none ∧ s.overCommitted = false) ∧
    fired.fireRanking.head? = some (entry 1 .fire) ∧ fired.eligible (entry 1 .fire) = true ∧
    (fired.figures (entry 1 .fire)).isSome = true ∧
    served.fireRanking = [] ∧ served.mark = none ∧ served.table.site.holdBack = 0 ∧ served.table.site.preemption = .off ∧
    served.choose served.leading = some (entry 1 .service) ∧ (served.figures (entry 1 .service)).isSome = true ∧
    deferring.choose deferring.leading = some (entry 0 .recall) ∧ deferring.queue = [⟨2, permit .service⟩] ∧
    deferring.table.site.deferral = true ∧ deferring.window = .recallWindow :=
  ⟨normal_sound, by decide, by decide, served_sound, three_sound (by decide +kernel), three_sound (by decide +kernel), by decide +kernel⟩

/-- One permit that waits, here with a second of class SERVICE, or a deferred one behind it. -/
def queueing (slot : Bool) : State :=
  three { bare .service with
      queue := if slot then [⟨0, permit .recall⟩] else [⟨0, permit .recall⟩, ⟨2, permit .service⟩],
      slot := if slot then some ⟨2, permit .service⟩ else none }
    { car with step := .recallDue, motion := .granted } idler { idler with motion := .granted }

theorem queueing_sound : ∀ slot, (queueing slot).soundTest = true := by decide +kernel

theorem witness_AdmissionStarts :
    (∀ slot, (queueing slot).Sound ∧ (queueing slot).admitted = false ∧ (queueing slot).pacer = .openA ∧
      (queueing slot).profile.mode = .unified ∧ (permit .recall).start ≤ (queueing slot).stepMax ∧
      (queueing slot).bl + (queueing slot).ml + (permit .recall).start ≤ (queueing slot).peak + (permit .recall).demand ∧
      (queueing slot).staged = none ∧ (queueing slot).car 0 = some { car with step := .recallDue, motion := .granted }) ∧
    (queueing false).queue = [] ++ ⟨0, permit .recall⟩ :: [⟨2, permit .service⟩] ∧
    (queueing true).queue = [] ++ ⟨0, permit .recall⟩ :: [] ∧ handed.Sound ∧ handed.queue = [] := by
  refine ⟨fun slot => ⟨three_sound (queueing_sound slot), ?_⟩, by decide +kernel, by decide +kernel, handed_sound, by decide +kernel⟩
  revert slot
  decide +kernel

/-- The grant makes an attempt due, and the step that finds no command makes it, before time passes (R108). -/
theorem test_admission_follows_the_grant :
    runs .grant (three { withEntry (bare .service) (entry 0 .service) with groupOrder := [0] } { idler with motion := .requested } idler idler)
      (fun t => t.admissionDue && nextIs (fun u => decide ((u.runOf 0).isSome ∧ u.now = t.now ∧ u.admissionDue = false)) (step t)) := by
  decide +kernel

/-- An entry to OPEN_A makes an attempt due (R106, R108); an attempt that admits none leaves none due. -/
theorem test_admission_follows_the_entry :
    runs .settleAExpiry { three { bare .service with pacer := .settleA, pacerTimer := some 210, queue := [⟨2, permit .service⟩] }
        idler idler { idler with motion := .granted } with pending := [] }
      (fun t => t.admissionDue && nextIs (fun u => (u.runOf 2).isSome) (step t)) ∧
    runs .admission { handed with admissionDue := true } (fun t => !t.admissionDue) := by decide +kernel

/-- The pacer attempts admission, with and without an attempt that is due, and an event that makes one due. -/
theorem witness_AdmissionStarts_due :
    served.Sound ∧ served.pacer = .openA ∧ served.admitted = false ∧ served.admissionDue = false ∧
    runs (.withdraw 0 2#8) served (fun t => t.admissionDue && decide (t.queue ≠ served.queue) && decide (t.pacer = .openA)) ∧
    runs .clear { served with admissionDue := true } (fun t => t.admissionDue) :=
  ⟨served_sound, by decide +kernel⟩

/-- SERVICE under SPLIT: a permit of a kind waits in a state of the cycle. -/
def waitingUnderSplit (p : PacerState) (kind : Kind) (settleB : Nat) : State :=
  let s := bare .service
  three { s with
      profile := { s.profile with mode := .split, settleB := settleB }, pacer := p, pacerTimer := some 210,
      queue := [⟨2, { permit .service with kind := kind }⟩] } idler idler { idler with motion := .granted }

theorem witness_AdmissionStarts_under_split :
    (waitingUnderSplit .openA .motor 0).Sound ∧ (waitingUnderSplit .openA .motor 100).Sound ∧ (waitingUnderSplit .openB .regen 100).Sound ∧
    runs .admission (waitingUnderSplit .openA .motor 0) (fun t => (t.runOf 2).isSome ∧ t.pacer = .openB) ∧
    runs .admission (waitingUnderSplit .openA .motor 100) (fun t => (t.runOf 2).isSome ∧ t.pacer = .settleB) ∧
    runs .admission (waitingUnderSplit .openB .regen 100) (fun t => (t.runOf 2).isSome ∧ t.pacer = .settleA) :=
  ⟨three_sound (by decide +kernel), three_sound (by decide +kernel), three_sound (by decide +kernel), by decide +kernel⟩

/-! ### Witnesses: selection and shedding -/

/-- What a test over a finite list and a bound on its other answers say of every permit that waits. -/
theorem of_list {α : Type} [DecidableEq α] {l : List α} {p : α → Bool} {q : α → Prop} (h : ∀ w ∈ l, (p w = true ↔ q w))
    (hp : ∀ w, p w = true → w ∈ l) (w : α) : p w = true ↔ w ∈ l ∧ q w :=
  ⟨fun hw => ⟨hp w hw, (h w (hp w hw)).mp hw⟩, fun hw => (h w hw.1).mpr hw.2⟩

/-- What a test of a car's record says of the car. -/
theorem of_any {α : Type} {o : Option α} {p : α → Prop} [DecidablePred p] {b : Bool} (h : b = o.any fun c => decide (p c)) :
    b = true ↔ ∃ c, o = some c ∧ p c := by
  subst h
  cases o <;> simp

/-- The same of a car and of what it may hold. -/
theorem of_any₂ {α β : Type} {o : Option α} {f : α → Option β} {p : α → β → Prop} [∀ c x, Decidable (p c x)] {b : Bool}
    (h : b = o.any fun c => (f c).any fun x => decide (p c x)) : b = true ↔ ∃ c x, o = some c ∧ f c = some x ∧ p c x := by
  subst h
  cases o <;> simp [Option.any_eq_true]

/-- SERVICE: car 0 is PARKED, car 1 runs on the first grant, car 2 waits on the second. -/
def shedding : State :=
  three { bare .service with queue := [⟨2, { permit .service with serial := 1 }⟩], grants := 2 } { car with step := .parked }
    (runner .service .service (.running 260)) { idler with motion := .granted }

theorem shedding_sound : shedding.Sound := three_sound (by decide +kernel)

/-- A profile becomes active at the end of a cycle and at the PROFILE of a pacer that waits (R112). -/
theorem witness_OverCommitment_at_activation :
    (split .openB 100 true).staged.isSome = true ∧ runs .openBExpiry (split .openB 100 true) (fun t => t.standby && t.staged.isNone) ∧
    runs (.profile ⟨0, 0, 1, 0, 1, 60, 0⟩) (awaitingRestart .service false 100) (fun t => t.standby && t.staged.isNone) := by decide +kernel

/-- The capacity falls to nothing: the permit, the parked car and the run all fall, and a side stays over. -/
theorem witness_OverCommitment :
    shedding.Sound ∧ shedding.Numbered ∧ shedding.standby = true ∧
    runs (.capacity 0#16 100#16) shedding (fun t => t.standby && decide (t.usable ≠ shedding.usable)) ∧
    ∃ (limit total left : Kind → Nat) (cut : Waiting → Bool) (shut stop : CarName → Bool) (beyond : Kind → Bool),
      limit .motor = 0 + 0 * shedding.profile.overloadPercent / 100 ∧ limit .regen = min (100#16).toNat 4000 + shedding.bl ∧
      total .motor = shedding.bl + shedding.ml ∧ total .regen = shedding.rl ∧
      (∀ w, cut w = true ↔ w ∈ shedding.waiting ∧ w.permit.cls = .service ∧ limit w.permit.kind + shedding.credits w.permit.kind +
        shedding.sumWaiting (fun x => cut x && x.permit.kind = w.permit.kind && w.permit.serial < x.permit.serial) Permit.demand <
          total w.permit.kind) ∧
      (∀ k, left k = total k - shedding.sumWaiting (fun x => cut x && x.permit.kind = k) Permit.demand) ∧
      (∀ n, shut n = true ↔ ∃ c, shedding.car n = some c ∧ c.step = .parked ∧ c.member = none ∧ c.powered = true ∧ c.credit = none ∧
        left .regen ≤ limit .regen + shedding.credits .regen ∧
        limit .motor + shedding.credits .motor + shedding.sumCars (fun m _ => if shut m && m < n then (shedding.table.cars[m]).i else 0) <
          left .motor) ∧
      (∀ n, stop n = true ↔ ∃ c p, shedding.car n = some c ∧ c.servicePermit = some p ∧ c.credit = none ∧
        limit p.kind + shedding.credits p.kind +
          (if p.kind = .motor then shedding.sumCars fun m _ => if shut m then (shedding.table.cars[m]).i else 0 else 0) +
          shedding.sumCars (fun m x => match x.servicePermit with
            | some q => if stop m && q.kind = p.kind && p.serial < q.serial then q.demand else 0
            | none => 0) < left p.kind) ∧
      (∀ k, beyond k = true ↔ limit k + shedding.credits k +
        (if k = .motor then shedding.sumCars fun m _ => if shut m then (shedding.table.cars[m]).i else 0 else 0) +
        shedding.sumCars (fun m x => match x.servicePermit with
          | some q => if stop m && q.kind = k then q.demand else 0
          | none => 0) < left k) ∧
      cut ⟨2, { permit .service with serial := 1 }⟩ = true ∧ shut 0 = true ∧ stop 1 = true ∧ beyond .motor = true := by
  refine ⟨shedding_sound, numbered_of_test (by decide +kernel), by decide +kernel, by decide +kernel,
    fun k => match k with | .motor => 0 | .regen => 100 + shedding.bl,
    fun k => match k with | .motor => shedding.bl + shedding.ml | .regen => shedding.rl,
    fun k => match k with | .motor => shedding.bl + 30 | .regen => 0,
    fun w => w = ⟨2, { permit .service with serial := 1 }⟩, fun n => n = 0, fun n => n = 1, fun k => k = .motor,
    by decide +kernel, by decide +kernel, by decide +kernel, by decide +kernel,
    of_list (by decide +kernel) (fun w hw => by rw [of_decide_eq_true hw]; decide +kernel), fun k => by cases k <;> decide +kernel,
    fun n => of_any (by revert n; decide +kernel), fun n => of_any₂ (by revert n; decide +kernel),
    fun k => by cases k <;> decide +kernel, by decide +kernel⟩

/-- What holds of every listed entry holds of every candidate. -/
theorem of_listed {s : State} {p : Entry → Prop} (h : ∀ g : GroupNo, ∀ e ∈ s.requests[g], p e) (e : Entry) (he : s.candidate e = true) :
    p e := by
  unfold State.candidate at he
  exact h _ e (List.contains_iff_mem.mp (Bool.and_eq_true_iff.mp he).2)

/-- The first eligible candidate of a class, as GrantChoice has it. -/
def First (s : State) (k : RunClass) (e : Entry) : Prop :=
  s.candidate e = true ∧ e.cls = k ∧ s.mayGrant e = true ∧
    ∀ x, s.candidate x = true → x.cls = k → s.mayGrant x = true →
      x = e ∨ if k = .fire then s.fireKeys e < s.fireKeys x else s.rankKeys e < s.rankKeys x

/-- The first candidate of a class, as MarkPlaced has it. -/
def Head (s : State) (k : RunClass) (e : Entry) : Prop :=
  s.candidate e = true ∧ e.cls = k ∧ ∀ x, s.candidate x = true → x.cls = k → x = e ∨ s.rankKeys e < s.rankKeys x

/-- The listed entries decide what is first, and whether any is; and whether pre-emption off finds a FIRE candidate held. -/
theorem first_of_listed {s : State} {k : RunClass} {e : Entry}
    (h : s.candidate e = true ∧ e.cls = k ∧ s.mayGrant e = true ∧ ∀ g : GroupNo, ∀ x ∈ s.requests[g], x.cls = k → s.mayGrant x = true →
      x = e ∨ if k = .fire then s.fireKeys e < s.fireKeys x else s.rankKeys e < s.rankKeys x) : First s k e :=
  ⟨h.1, h.2.1, h.2.2.1, of_listed h.2.2.2⟩

theorem not_first_of_listed {s : State} {k : RunClass} (h : ∀ g : GroupNo, ∀ x ∈ s.requests[g], x.cls ≠ k) (x : Entry) : ¬ First s k x :=
  fun hx => of_listed h x hx.1 hx.2.1

theorem head_of_listed {s : State} {k : RunClass} {e : Entry}
    (h : s.candidate e = true ∧ e.cls = k ∧ ∀ g : GroupNo, ∀ x ∈ s.requests[g], x.cls = k → x = e ∨ s.rankKeys e < s.rankKeys x) : Head s k e :=
  ⟨h.1, h.2.1, of_listed h.2.2⟩

theorem nothingToPreempt_of_off {s : State} (h : ∀ g : GroupNo, ∀ e ∈ s.requests[g], e.cls = .fire → s.heldByChecks e = false)
    (off : s.table.site.preemption = .off) : s.NothingToPreempt := .inr ⟨of_listed h, .inl off⟩

/-- SERVICE: car 0 has a RECALL entry, car 1 a SERVICE entry, in a group over budget that yields, in a window. -/
def choosing (w : Window) : State :=
  let s := { bare .service with window := w, requests := (Vector.replicate 6 []).set 0 [entry 0 .recall, entry 1 .service] }
  three { s with table := { s.table with groups := s.table.groups.set 0 { s.table.groups[(0 : GroupNo)] with limit := 30, clip := 40, yield := true } } }
    { car with step := .recallDue, motion := .requested } { idler with motion := .requested } idler

theorem choosing_sound : ∀ w ∈ [Window.recallWindow, .serviceWindow], (choosing w).soundTest = true := by decide +kernel

/-- A FIRE entry; a SERVICE entry alone; a RECALL entry that leads, and one that a SERVICE choice gives way to; and no entry. -/
theorem witness_GrantChoice :
    (∀ s ∈ [served, fired, choosing .recallWindow, choosing .serviceWindow, busy], s.Sound ∧ s.selects ∧ s.mark = none ∧
      s.table.site.holdBack = 0 ∧ s.NothingToPreempt) ∧
    First fired .fire (entry 1 .fire) ∧ First served .service (entry 1 .service) ∧ served.leadingKind = .service ∧
    (∀ x, ¬ First served .fire x) ∧ (∀ w ∈ [Window.recallWindow, .serviceWindow], First (choosing w) .recall (entry 0 .recall) ∧
      First (choosing w) .service (entry 1 .service) ∧ ∀ x, ¬ First (choosing w) .fire x) ∧
    (choosing .recallWindow).leadingKind = .recall ∧ (choosing .serviceWindow).leadingKind = .service ∧
    ((choosing .serviceWindow).table.groups[(0 : GroupNo)]).limit < (choosing .serviceWindow).accounts[(0 : GroupNo)] ∧
    ∀ k x, ¬ First busy k x := by
  have fired_sound : fired.Sound := three_sound (by decide +kernel)
  refine ⟨?_, first_of_listed (by decide +kernel), first_of_listed (by decide +kernel), by decide +kernel,
    not_first_of_listed (by decide +kernel), fun w hw => ⟨?_, ?_, ?_⟩, by decide +kernel, by decide +kernel, by decide +kernel,
    fun k => not_first_of_listed fun g x hx => ?_⟩
  · simp only [List.forall_mem_cons, List.not_mem_nil, false_imp_iff, implies_true, and_true]
    refine ⟨⟨served_sound, ?_, rfl, rfl, ?_⟩, ⟨fired_sound, ?_, rfl, rfl, ?_⟩, ⟨three_sound (choosing_sound _ (by decide)), ?_, rfl, rfl, ?_⟩,
      ⟨three_sound (choosing_sound _ (by decide)), ?_, rfl, rfl, ?_⟩, busy_sound, ?_, rfl, rfl, ?_⟩
    all_goals first
      | exact nothingToPreempt_of_off (by decide +kernel) rfl
      | (unfold State.selects State.MaySelect; decide +kernel)
  · exact first_of_listed (by revert w; decide +kernel)
  · exact first_of_listed (by revert w; decide +kernel)
  · exact not_first_of_listed (by revert w; decide +kernel)
  · exact absurd hx ((by decide +kernel : ∀ g : GroupNo, busy.requests[g] = []) g ▸ List.not_mem_nil)

/-- SERVICE: car 1 has waited long with a SERVICE entry, which its checks hold where 80 is offered; car 0 may have an entry of a class. -/
def guarding (mark : Option CarName) (other : Option RunClass) (offered : Nat) : State :=
  let s := bare .service
  three { s with
      table := { s.table with site := { s.table.site with holdBack := 1 } }, offered := offered,
      profile := { s.profile with stepPercent := 60 },
      requests := (Vector.replicate 6 []).set 0 ({ entry 1 .service with arrival := 80 } :: other.toList.map (entry 0)),
      queue := [⟨2, { permit .service with demand := 45 }⟩], mark := mark }
    { idler with motion := if other.isSome then .requested else .still, fire := decide (other = some .fire) }
    { idler with motion := .requested, load := some 60 } { idler with motion := .granted }

/-- The mark, the entry of car 0 and what is offered, of the states below. -/
def guardCases : List (Option CarName × Option RunClass × Nat) :=
  [(none, none, 80), (none, some .fire, 80), (some 1, none, 80), (some 1, some .fire, 80), (some 1, none, 500), (some 1, none, 62),
    (some 0, some .service, 80)]

theorem guarding_sound : ∀ x ∈ guardCases, (guarding x.1 x.2.1 x.2.2).soundTest = true := by decide +kernel

/-- No mark and one that stands, on the first candidate, which is held, with and without a FIRE grant; a mark whose entry may be granted,
one whose entry fails the step check, and one whose entry is not the first of its class while the first waits too long. -/
theorem witness_MarkPlaced :
    (∀ x ∈ guardCases, (guarding x.1 x.2.1 x.2.2).Sound ∧ (guarding x.1 x.2.1 x.2.2).selects ∧
      (guarding x.1 x.2.1 x.2.2).table.site.holdBack = 1 ∧ (guarding x.1 x.2.1 x.2.2).NothingToPreempt ∧
      (guarding x.1 x.2.1 x.2.2).mark = x.1 ∧ (guarding x.1 x.2.1 x.2.2).leadingKind = .service ∧
      Head (guarding x.1 x.2.1 x.2.2) .service { entry 1 .service with arrival := 80 } ∧
      (guarding x.1 x.2.1 x.2.2).table.site.holdBack * 10 < (guarding x.1 x.2.1 x.2.2).now / 2 - 80 ∧
      (guarding x.1 x.2.1 x.2.2).entriesOf 1 = [{ entry 1 .service with arrival := 80 }] ∧
      (guarding x.1 x.2.1 x.2.2).heldByChecks { entry 1 .service with arrival := 80 } = decide (x.2.2 = 80)) ∧
    (guarding none (some .fire) 80).candidate (entry 0 .fire) = true ∧ (guarding none (some .fire) 80).mayGrant (entry 0 .fire) = true ∧
    (guarding (some 1) none 500).mayGrant { entry 1 .service with arrival := 80 } = true ∧
    (guarding (some 1) none 62).mayGrant { entry 1 .service with arrival := 80 } = false ∧
    (guarding (some 0) (some .service) 80).entriesOf 0 = [entry 0 .service] ∧
    ¬ Head (guarding (some 0) (some .service) 80) .service (entry 0 .service) := by
  refine ⟨fun x hx => ⟨three_sound (guarding_sound x hx), ?_, ?_, nothingToPreempt_of_off ?_ ?_, ?_, ?_, head_of_listed ?_, ?_, ?_, ?_⟩,
    by decide +kernel, by decide +kernel, by decide +kernel, by decide +kernel, by decide +kernel, fun h => ?_⟩
  · unfold State.selects State.MaySelect; revert x; decide +kernel
  · revert x; decide +kernel
  · revert x; decide +kernel
  · revert x; decide +kernel
  · revert x; decide +kernel
  · revert x; decide +kernel
  · revert x; decide +kernel
  · revert x; decide +kernel
  · revert x; decide +kernel
  · revert x; decide +kernel
  · exact absurd (h.2.2 { entry 1 .service with arrival := 80 } (by decide +kernel) rfl) (by decide +kernel)

/-- SERVICE: car 0 has a RECALL entry that its checks hold, car 1 runs on the first grant, car 2 waits on the second; pre-emption may
curtail. -/
def preempting (offered : Nat) : State :=
  let s := withEntry (bare .service) (entry 0 .recall)
  three { s with
      table := { s.table with site := { s.table.site with preemption := .running } }, offered := offered,
      profile := { s.profile with stepPercent := 60 }, queue := [⟨2, { permit .service with serial := 1 }⟩], grants := 2 }
    { car with step := .recallDue, motion := .requested, load := some 40 } (runner .service .service (.running 260))
    { idler with motion := .granted }

theorem preempting_sound : ∀ offered ∈ [80, 90], (preempting offered).soundTest = true := by decide +kernel

/-- With 90 offered the waiting permit's demand is enough; with 80 the run falls too, and the candidate waits. -/
theorem witness_Preemption : ∀ offered ∈ [80, 90], ∃ s, s = preempting offered ∧ s.Sound ∧ s.Numbered ∧ s.selects ∧
    s.candidate (entry 0 .recall) = true ∧ (∀ x, s.candidate x = true → x.cls ≠ .service → x = entry 0 .recall) ∧
    ∃ (f : Figures) (cut : Waiting → Bool) (stop : CarName → Bool) (out : Kind → Nat),
      s.figures (entry 0 .recall) = some f ∧ s.heldByChecks (entry 0 .recall) = true ∧ s.window = .recallWindow ∧
      s.table.site.preemption = .running ∧
      (∀ k, out k = s.sumCars fun _ c => match c.run, c.pending with
        | some r, some x => if x.kind = .curtail ∧ r.permit.cls = .service ∧ r.permit.kind = k then r.permit.demand else 0
        | _, _ => 0) ∧
      (∀ w, cut w = true ↔ w ∈ s.waiting ∧ w.permit.cls = .service ∧ s.lacks f
        (s.ml - out .motor - s.sumWaiting (fun x => cut x && x.permit.kind = .motor && w.permit.serial < x.permit.serial) Permit.demand)
        (s.rl - out .regen - s.sumWaiting (fun x => cut x && x.permit.kind = .regen && w.permit.serial < x.permit.serial) Permit.demand)
        w.permit.kind = true) ∧
      (∀ n, stop n = true ↔ ∃ c p, s.car n = some c ∧ c.servicePermit = some p ∧ s.lacks f
        (s.ml - s.sumWaiting (fun x => cut x && x.permit.kind = .motor) Permit.demand - out .motor -
          s.sumCars (fun m x => match x.servicePermit with
            | some q => if stop m && q.kind = .motor && p.serial < q.serial then q.demand else 0
            | none => 0))
        (s.rl - s.sumWaiting (fun x => cut x && x.permit.kind = .regen) Permit.demand - out .regen -
          s.sumCars (fun m x => match x.servicePermit with
            | some q => if stop m && q.kind = .regen && p.serial < q.serial then q.demand else 0
            | none => 0))
        p.kind = true) ∧
      cut ⟨2, { permit .service with serial := 1 }⟩ = true ∧ stop 1 = decide (offered = 80) := by
  intro offered ho
  refine ⟨_, rfl, three_sound (preempting_sound offered ho), numbered_of_test ?_, ?_, ?_, of_listed ?_,
    ⟨.motor, 20, 40, 2, 3⟩, fun w => w = ⟨2, { permit .service with serial := 1 }⟩, fun n => n = 1 ∧ offered = 80, fun _ => 0,
    ?_, ?_, rfl, rfl, ?_, of_list ?_ ?_, fun n => of_any₂ ?_, ?_, ?_⟩
  · revert offered; decide +kernel
  · unfold State.selects State.MaySelect; revert offered; decide +kernel
  · revert offered; decide +kernel
  · revert offered; decide +kernel
  · revert offered; decide +kernel
  · revert offered; decide +kernel
  · intro k; cases k <;> (revert offered; decide +kernel)
  · revert offered; decide +kernel
  · intro w hw; rw [of_decide_eq_true hw]; revert offered; decide +kernel
  · revert offered n; decide +kernel
  · decide +kernel
  · simp

/-! ### Witnesses: the timers of a car -/

theorem witness_RunTimers :
    busy.Sound ∧ busy.runOf 1 = some ⟨permit .service, 450, .startedWait 260⟩ ∧ busy.waitsOf 1 = [] ∧ busy.entriesOf 1 = [] ∧
    (busy.car 1).any (fun c => c.unpermitted = false ∧ c.step ≠ .parked ∧ c.step ≠ .shut) = true ∧
    busy.runOf 0 = some ⟨permit .service, 450, .running 260⟩ ∧ busy.runOf 2 = some ⟨permit .service, 450, .grace .runTimeout 260⟩ ∧
    busy.waitsOf 2 = [] ∧ recalled2.Sound ∧ recalled2.runOf 0 = some ⟨permit .recall, 450, .startedWait 260⟩ ∧
    recalled2.waitsOf 0 = [] ∧ recalled2.entriesOf 0 = [] ∧
    (recalled2.car 0).any (fun c => c.step = .recalling ∧ c.unpermitted = false ∧ c.attempts = 0 ∧ c.position = some 3) = true ∧
    recalled2.recallLanding 0 3 = some 0 ∧ (failing 2 (.startedWait 260)).table.site.attempts ≤ min (2 + 1) 3 ∧
    recalled.Sound ∧ recalled.runOf 1 = some ⟨permit .recall, 450, .running 260⟩ :=
  ⟨busy_sound, by decide +kernel, by decide +kernel, by decide +kernel, by decide +kernel, by decide +kernel, by decide +kernel,
    by decide +kernel, recalled2_sound, by decide +kernel, by decide +kernel, by decide +kernel, by decide +kernel, by decide +kernel,
    by decide +kernel, recalled_sound, by decide +kernel⟩

/-- SERVICE under selection NONE, with and without shut-when-parked. -/
def ending (shut : Bool) : State :=
  let s := { bare .service with selection := Vector.replicate 6 .nobody }
  three { s with table := { s.table with groups := s.table.groups.set 0 { s.table.groups[(0 : GroupNo)] with shutWhenParked := shut } } }
    { car with step := .dwell, position := some 0, dwell := some 260 } car car

theorem ending_sound : ∀ shut, (ending shut).soundTest = true := by decide +kernel

theorem witness_DwellEnds :
    handing.Sound ∧ handing.phase = .preTransfer ∧ (handing.car 2).any (fun c => c.dwell = some 260) = true ∧
    recalled.Sound ∧ recalled.phase = .recall ∧ (recalled.car 2).any (fun c => c.dwell = some 260 ∧ c.fire = false) = true ∧
    (recalled.car 0).any (fun x => x.motion.isOut = false ∧ x.step ≠ .parked ∧ x.step ≠ .shut ∧ x.step ≠ .givenUp) = true ∧
    (∀ shut, (ending shut).Sound ∧ (ending shut).selection[groupOf 0] = .nobody ∧
      (ending shut).car 0 = some { car with step := .dwell, position := some 0, dwell := some 260 } ∧
      ((ending shut).table.groups[groupOf 0]).shutWhenParked = shut) := by
  refine ⟨handing_sound, by decide +kernel, by decide +kernel, recalled_sound, by decide +kernel, by decide +kernel, by decide +kernel,
    fun shut => ⟨three_sound (ending_sound shut), ?_⟩⟩
  revert shut
  decide +kernel

end Sys2Proof.Tests
end

section
/-! PROOF. What the Demand Calculator answers for an entry (chapter 3), and the figures of a locate run and of a motoring run. -/

namespace Sys2Proof.Machine

/-! ### Division rounded up (R44) -/

theorem ceilDiv_succ (a d : Nat) : ceilDiv a (d + 1) = (a + d) / (d + 1) := rfl

theorem ceilDiv_hundred_sub {b : Nat} (hb : b < 100) (a : Nat) : ceilDiv a (100 - b) = (a + (99 - b)) / (100 - b) := by
  obtain ⟨d, hd⟩ : ∃ d, 100 - b = d + 1 := ⟨99 - b, by omega⟩
  have h99 : 99 - b = d := by omega
  rw [hd, h99, ceilDiv_succ]

theorem one_le_ceilDiv {a d : Nat} (hd : 1 ≤ d) (ha : 1 ≤ a) : 1 ≤ ceilDiv a d :=
  (Nat.one_le_div_iff hd).mpr (by omega)

/-- A figure scaled by a factor of at least one, rounded up, is no less than the figure. -/
theorem le_ceilDiv_mul {k d : Nat} (hd : 1 ≤ d) (hk : d ≤ k) (a : Nat) : a ≤ ceilDiv (a * k) d := by
  have hmul : a * d ≤ a * k := Nat.mul_le_mul_left a hk
  exact (Nat.le_div_iff_mul_le hd).mpr (by omega)

theorem ceilDiv_le_ceilDiv {a b : Nat} (h : a ≤ b) (d : Nat) : ceilDiv a d ≤ ceilDiv b d :=
  Nat.div_le_div_right (by omega)

/-! ### The ratings (R42) -/

theorem CarSection.ranges_iff (r : CarSection) :
    r.ranges = true ↔ (1 ≤ r.m ∧ r.m ≤ 400) ∧ (100 ≤ r.k ∧ r.k ≤ 300) ∧ r.reff ≤ 90 ∧ (30 ≤ r.b ∧ r.b ≤ 55) ∧ r.i ≤ 15 := by
  simp [CarSection.ranges, inRange, and_assoc]

/-! ### The figures of a MOTOR run (R46, R47, R50) -/

section Motor
variable (r : CarSection) (demand floors n : Nat)

theorem motorFigures_kind : (motorFigures r demand floors).kind = .motor := rfl
theorem motorFigures_floors : (motorFigures r demand floors).floors = floors := rfl

theorem motorFigures_start : (motorFigures r demand floors).start = (demand * r.k + 99) / 100 :=
  ceilDiv_succ _ 99

theorem motorFigures_units :
    (motorFigures r demand floors).units = max 1 (min 4095 ((demand * (floors + 2) + 63) / 64)) := by
  rw [motorFigures, runUnits, ceilDiv_succ _ 63]

theorem locateFigures_demand : (locateFigures r).demand = (r.m * 30 + 99) / 100 := ceilDiv_succ _ 99

theorem motoringFigures_demand : (motoringFigures r n floors).demand = (r.m * max n 10 + 99) / 100 :=
  ceilDiv_succ _ 99

variable {r}

/-- The start factor of a car within its ratings makes no start demand smaller than the demand (R50). -/
theorem motorFigures_demand_le_start (hr : r.ranges = true) : demand ≤ (motorFigures r demand floors).start := by
  obtain ⟨-, ⟨hk, -⟩, -⟩ := r.ranges_iff.mp hr
  exact le_ceilDiv_mul (by decide) hk demand

/-- The 10 % floor keeps a motoring run's demand at 1 kW or more (R50). -/
theorem one_le_motoringFigures_demand (hr : r.ranges = true) : 1 ≤ (motoringFigures r n floors).demand := by
  obtain ⟨⟨hm, -⟩, -⟩ := r.ranges_iff.mp hr
  have hprod : 1 ≤ r.m * max n 10 := Nat.mul_pos hm (by omega)
  exact one_le_ceilDiv (by decide) hprod

/-- The locate demand lies from 1 kW, at a rating of 1, to 120 kW, at a rating of 400 (R46). -/
theorem locateFigures_demand_bounds (hr : r.ranges = true) :
    1 ≤ (locateFigures r).demand ∧ (locateFigures r).demand ≤ 120 := by
  obtain ⟨⟨hm, hm'⟩, -⟩ := r.ranges_iff.mp hr
  have hlargest : (locateFigures r).demand ≤ ceilDiv (400 * 30) 100 := ceilDiv_le_ceilDiv (Nat.mul_le_mul_right 30 hm') 100
  exact ⟨one_le_ceilDiv (by decide) (Nat.mul_pos hm (by decide)), hlargest⟩

end Motor

/-! ### The path of a run (R43, R45, R48, R49) -/

theorem normalised_eq {r : CarSection} (hb : r.b < 100) (imbalance : Nat) :
    normalised r imbalance = min 100 ((imbalance * 100 + (99 - r.b)) / (100 - r.b)) := by
  rw [normalised, ceilDiv_hundred_sub hb]

/-- The heavy side regenerates when it descends: the car, of a load above the balance, or the counterweight (R49). -/
theorem isRegenerating_iff (up : Bool) (load balance : Nat) :
    isRegenerating up load balance = true ↔ (balance < load ∧ up = false) ∨ (load < balance ∧ up = true) := by
  rcases Nat.lt_trichotomy load balance with h | rfl | h
  · simp [isRegenerating, h, h.ne, h.not_gt]
  · simp [isRegenerating]
  · simp [isRegenerating, h, h.ne', h.not_gt]

/-- A run of a known load between two landings takes the imbalance path, with the size of the imbalance and the distance as they stand
whichever way each lies (R43, R45, R48). -/
theorem runFigures_of_load {position destination : Nat} (r : CarSection) (lp : Nat) (h : position ≠ destination) :
    runFigures r (some lp) position destination =
      some (if isRegenerating (decide (position < destination)) lp r.b
        then regenFigures r (normalised r ((lp - r.b) + (r.b - lp))) ((position - destination) + (destination - position))
        else motoringFigures r (normalised r ((lp - r.b) + (r.b - lp))) ((position - destination) + (destination - position))) := by
  have hfloors : (if decide (position < destination) then destination - position else position - destination) =
      (position - destination) + (destination - position) := by
    simp only [decide_eq_true_eq]
    split <;> omega
  have himbalance : (if r.b ≤ lp then lp - r.b else r.b - lp) = (lp - r.b) + (r.b - lp) := by
    split <;> omega
  simp only [runFigures, if_neg h, hfloors, himbalance]

/-! ### The answer for an entry (R41, R43, R45) -/

section Answer
variable {s : State} {e : Entry} {c : Car}

theorem State.figures_of_locate (hc : s.car e.car = some c) (hd : e.destination = none) :
    s.figures e = some (locateFigures s.table.cars[e.car]) := by
  simp only [State.figures, hc, hd]

theorem State.figures_of_run {p d : Landing} (hc : s.car e.car = some c) (hp : c.position = some p) (hd : e.destination = some d) :
    s.figures e = runFigures s.table.cars[e.car] c.load p.val d.val := by
  simp only [State.figures, hc, hp, hd]

theorem State.permitFor_destination (s : State) (e : Entry) (f : Figures) : (s.permitFor e f).destination = e.destination := rfl

end Answer

/-- A START without a destination carries 255 in the destination's place (R46). -/
theorem start_payload_of_locate (n : CarNo) (cls : RunClass) (limit : Nat) :
    (OutMsg.start n none cls limit).payload[1]? = some 255#8 := rfl

end Sys2Proof.Machine

/-! ### The obligations

In a namespace of their own, since Sys2Proof.Machine has its definitions under these names. -/

namespace Sys2Proof.Demand
open Machine

/-- Settles O15: the first test of R45 decides the path, and the entry's missing destination goes into the permit and its START. -/
theorem locateFigures : Obligations.LocateFigures := by
  rintro s e c r hc rfl hd
  refine ⟨_, State.figures_of_locate hc hd, motorFigures_kind .., locateFigures_demand _, motorFigures_start .., motorFigures_floors ..,
    motorFigures_units .., locateFigures_demand_bounds, ?_, fun limit cls => ?_⟩
  · rw [State.permitFor_destination, hd]
  · rw [State.permitFor_destination, hd, start_payload_of_locate]

/-- Settles O16: each of the three cases fails the heavy-side test of R49, so the run takes the figures of R50. -/
theorem motoringFigures : Obligations.MotoringFigures := by
  rintro s e c r p d lp hc rfl hp hd hne hload hb hside
  have hpath : isRegenerating (decide (p.val < d.val)) lp s.table.cars[e.car].b = false := by
    rw [← Bool.not_eq_true, isRegenerating_iff]
    simp only [gt_iff_lt, Fin.lt_def] at hside
    simp only [decide_eq_true_eq, decide_eq_false_iff_not]
    omega
  have hfigures := State.figures_of_run hc hp hd
  rw [hload, runFigures_of_load _ _ (Fin.val_ne_of_ne hne), hpath] at hfigures
  exact ⟨_, _, hfigures, motorFigures_kind .., normalised_eq hb _, motoringFigures_demand .., motorFigures_start ..,
    motorFigures_floors .., motorFigures_units ..,
    fun hr => ⟨one_le_motoringFigures_demand _ _ hr, motorFigures_demand_le_start _ _ hr⟩⟩

end Sys2Proof.Demand
end

section
/-! PROOF. What a RESTART does (R110, R119): it can change nothing but the pacer's own fields and the messages, so that nothing follows it
at the end of its event. -/

namespace Sys2Proof.Machine

/-! ### The evaluation of the CLEAR condition -/

/-- An event that changes nothing of what the CLEAR condition reads sends no CLEAR (R152). -/
theorem State.clearAfter_of_unmoved {s0 s : State} (phase : s.phase = s0.phase) (handshake : s.handshake = s0.handshake)
    (filtered : s.filtered = s0.filtered) (trip : s.trip = s0.trip) (cars : s.cars = s0.cars) : s0.clearAfter s = s := by
  by_cases pre : s0.phase = .preTransfer
  · have unmoved : s0.clearMoved s = false := by
      simp [State.clearMoved, pre, handshake, filtered, trip, State.car_congr cars]
    simp [State.clearAfter, unmoved]
  · rcases s0.clearAfter_cases s with same | ⟨_, -, sending, -⟩
    · exact same
    · exact absurd (phase.symm.trans sending) pre

/-! ### Moves of the pacer alone -/

/-- s with the pacer in another state of its own. -/
def State.paced (s : State) (p : PacerState) (timer : Option Nat) : State :=
  { s with pacer := p, pacerTimer := timer, admitted := false }

/-- t differs from s at most in the pacer's state, its timer, the admitted mark and what was sent. -/
def State.Paces (s t : State) : Prop :=
  ∃ p timer admitted o, t = { s with pacer := p, pacerTimer := timer, admitted := admitted, outbox := o }

theorem State.Paces.refl (s : State) : s.Paces s := ⟨_, _, _, _, rfl⟩

theorem State.paced_paces (s : State) (p : PacerState) (timer : Option Nat) : s.Paces (s.paced p timer) := ⟨_, _, _, _, rfl⟩

theorem State.emit_paces (s : State) (p : Port) (m : OutMsg) : s.Paces (s.emit p m) := by
  obtain ⟨o, sent⟩ := s.emit_shape p m
  exact ⟨_, _, _, o, sent⟩

theorem State.Paces.quiet {s t : State} (h : s.Paces t) : s.Quiet t := by
  obtain ⟨p, timer, admitted, o, rfl⟩ := h
  refine ⟨rfl, rfl, rfl, rfl, rfl, rfl, ?_, State.clearAfter_of_unmoved rfl rfl rfl rfl rfl⟩
  cases staged : s.staged <;> simp [State.activated, staged]

/-- The figures are formed from nothing of the pacer but its profile (R56). -/
theorem State.Paces.fresh {s t : State} (h : s.Paces t) (fresh : s.Fresh) : t.Fresh := by
  obtain ⟨p, timer, admitted, o, rfl⟩ := h
  have formed : ({ s with pacer := p, pacerTimer := timer, admitted := admitted, outbox := o } : State).refresh =
      { s.refresh with pacer := p, pacerTimer := timer, admitted := admitted, outbox := o } := rfl
  unfold State.Fresh at fresh ⊢
  rw [formed, fresh]

/-- Where only the pacer moves, the event ends with the decisions it makes due. -/
theorem State.Paces.endEvent {s t : State} (h : s.Paces t) (fresh : s.Fresh) :
    s.endEvent t = s.queueAdmission (s.queueSelection t) :=
  State.endEvent_quiet h.quiet (h.fresh fresh)

/-! ### The resume of a pacer that waits (R106, R110) -/

section Resume
variable {s : State}

theorem State.haltPacer_of_unstaged (unstaged : s.staged = none) : s.haltPacer = s.paced .halted none := by
  simp [State.haltPacer, State.activateStaged, State.paced, unstaged]

theorem State.enterSettleA_of_pos (timed : 0 < s.profile.settleA) :
    s.enterSettleA = s.paced .settleA (some (s.inTenths s.profile.settleA)) := by
  simp [State.enterSettleA, State.inTenths, State.paced, timed.ne']

theorem State.enterSettleA_of_zero (untimed : s.profile.settleA = 0) :
    s.enterSettleA = s.paced .openA (if s.profile.mode = .split then some (s.inTenths s.profile.openA) else none) := by
  simp [State.enterSettleA, State.enterOpenA, State.inTenths, State.paced, untimed]

theorem State.enterSettleA_paces (s : State) : s.Paces s.enterSettleA := by
  rcases Nat.eq_zero_or_pos s.profile.settleA with untimed | timed
  · rw [State.enterSettleA_of_zero untimed]; exact s.paced_paces _ _
  · rw [State.enterSettleA_of_pos timed]; exact s.paced_paces _ _

variable (waits : s.pacer = .waitRestart)
include waits

theorem State.resume_in_takeover (phase : s.phase = .takeover) : s.resume = s.haltPacer := by
  simp [State.resume, waits, phase]

theorem State.resume_outside_takeover (phase : s.phase ≠ .takeover) : s.resume = s.enterSettleA := by
  simp [State.resume, waits, phase]

theorem State.resume_paces (unstaged : s.staged = none) : s.Paces s.resume := by
  by_cases phase : s.phase = .takeover
  · rw [State.resume_in_takeover waits phase, State.haltPacer_of_unstaged unstaged]
    exact s.paced_paces _ _
  · rw [State.resume_outside_takeover waits phase]
    exact s.enterSettleA_paces

end Resume

/-! ### RESTART taken by the pacer (R119) -/

section Taken
variable {s : State} {k : Byte}

theorem State.takeRestart_ignored (waits : s.pacer ≠ .waitRestart) : s.takeRestart k = s := by
  simp [State.takeRestart, waits]

theorem State.takeRestart_answered (waits : s.pacer = .waitRestart) (asserted : s.trip = true ∨ s.filtered = true) :
    s.takeRestart k = s.alertWaitRestart k := by
  simp [State.takeRestart, waits, asserted]

theorem State.takeRestart_resumes (waits : s.pacer = .waitRestart) (trip : s.trip = false) (filtered : s.filtered = false) :
    s.takeRestart k = s.resume := by
  simp [State.takeRestart, waits, trip, filtered]

theorem State.takeRestart_paces (k : Byte) (unstaged : s.pacer = .waitRestart → s.staged = none) : s.Paces (s.takeRestart k) := by
  by_cases waits : s.pacer = .waitRestart
  · by_cases asserted : s.trip = true ∨ s.filtered = true
    · rw [State.takeRestart_answered waits asserted]
      exact s.emit_paces _ _
    · simp only [not_or, Bool.not_eq_true] at asserted
      rw [State.takeRestart_resumes waits asserted.1 asserted.2]
      exact State.resume_paces waits (unstaged waits)
  · rw [State.takeRestart_ignored waits]
    exact .refl s

end Taken

/-- A pacer that waits for RESTART has no profile staged: the move there made it active (R110, R112). -/
theorem State.Shaped.unstaged_of_waits {s : State} (shaped : s.Shaped) (waits : s.pacer = .waitRestart) : s.staged = none := by
  by_contra staged
  have cycling := shaped.staged (Option.isSome_iff_ne_none.mpr staged)
  simp [waits, PacerState.cycling] at cycling

/-! ### The frame on the panel link, and the command -/

/-- The state in which a message on the panel link is taken (R159). -/
def State.panelFrame (s : State) : State := s.begin.goodFrame .panel

/-- s with the record that a good frame gives the panel link: UP, with the full silence time of 3.0 s (R159). -/
def State.panelHeard (s : State) : State := { s with panelLink := ⟨true, some (s.now + 60)⟩ }

theorem State.panelFrame_sends (s : State) : ∃ o d, s.panelFrame = { s.panelHeard with outbox := o, selectionDue := d } :=
  s.begin.goodFrame_sends .panel (.inl (by decide))

theorem State.panelFrame_silent (s : State) : s.panelFrame.silent = s.panelHeard.silent := by
  obtain ⟨o, d, heard⟩ := s.panelFrame_sends
  rw [heard]; rfl

@[simp] theorem State.panelFrame_phase (s : State) : s.panelFrame.phase = s.phase := s.begin.goodFrame_phase .panel
@[simp] theorem State.panelFrame_pacer (s : State) : s.panelFrame.pacer = s.pacer := s.begin.goodFrame_pacer .panel
@[simp] theorem State.panelFrame_profile (s : State) : s.panelFrame.profile = s.profile := s.begin.goodFrame_profile .panel
@[simp] theorem State.panelFrame_staged (s : State) : s.panelFrame.staged = s.staged := s.begin.goodFrame_staged .panel
@[simp] theorem State.panelFrame_filtered (s : State) : s.panelFrame.filtered = s.filtered := s.begin.goodFrame_filtered .panel
@[simp] theorem State.panelFrame_trip (s : State) : s.panelFrame.trip = s.trip := s.begin.goodFrame_trip .panel
@[simp] theorem State.panelFrame_now (s : State) : s.panelFrame.now = s.now := s.begin.goodFrame_now .panel

/-- Moves of the pacer do not show what the frame sent, or whether it made a selection due. -/
theorem State.panelFrame_paced_silent (s : State) (p : PacerState) (timer : Option Nat) :
    (s.panelFrame.paced p timer).silent = (s.panelHeard.paced p timer).silent := by
  obtain ⟨o, d, heard⟩ := s.panelFrame_sends
  rw [heard]; rfl

/-- A frame on a link that is UP already sends nothing by itself. -/
theorem State.panelFrame_outbox {s : State} (up : s.panelLink.up = true) : s.panelFrame.outbox = [] := by
  simp [State.panelFrame, State.goodFrame, State.linkUp, State.setLink, up]

theorem State.mem_toPanel {s : State} (up : s.linkUp .panel = true) (m : OutMsg) : (.link .panel, m) ∈ (s.toPanel m).outbox := by
  simp [State.toPanel, State.emit, State.portUp, up]

theorem exec_restart (k : Byte) (s : State) :
    exec (.restart k) s = .next (s.panelFrame.endEvent (s.panelFrame.takeRestart k)) := rfl

/-- A RESTART leaves what the pacer makes of it, and decisions that it may make due. -/
theorem exec_restart_next {s : State} (k : Byte) (shaped : s.Shaped) (fresh : s.Fresh) :
    ∃ t, exec (.restart k) s = .next t ∧ t.silent = (s.panelFrame.takeRestart k).silent ∧
      t.outbox = (s.panelFrame.takeRestart k).outbox := by
  have paces : s.panelFrame.Paces (s.panelFrame.takeRestart k) :=
    State.takeRestart_paces k fun waits => s.panelFrame_staged.trans (shaped.unstaged_of_waits (s.panelFrame_pacer ▸ waits))
  have ends := paces.endEvent (State.fresh_goodFrame (State.fresh_begin fresh) .panel)
  exact ⟨_, exec_restart k s, by rw [ends]; rfl, by rw [ends]; rfl⟩

end Sys2Proof.Machine

/-! ### The obligation -/

namespace Sys2Proof.Restart
open Machine

/-- Settles O40: the pacer's own branch decides, on the state the frame has left, and its event ends with nothing further. -/
theorem restartResumes : Obligations.RestartResumes := by
  rintro s u k shaped fresh rfl
  obtain ⟨t, next, silent, outbox⟩ := exec_restart_next k shaped fresh
  refine ⟨t, next, fun other => ?ignored, fun waits asserted => ?answered, fun waits noTrip noStrain => ?resumed⟩
  case ignored =>
    rw [State.takeRestart_ignored (by simpa using other)] at silent outbox
    exact ⟨silent.trans s.panelFrame_silent, fun up => outbox.trans (State.panelFrame_outbox up)⟩
  case answered =>
    rw [State.takeRestart_answered (by simpa using waits) (by simpa using asserted)] at silent outbox
    refine ⟨silent.trans ((State.emit_silent _ _ _).trans s.panelFrame_silent), ?_⟩
    rw [outbox, ← s.panelFrame_trip, ← s.panelFrame_filtered]
    exact State.mem_toPanel (State.goodFrame_up _ _) _
  case resumed =>
    have waiting : s.panelFrame.pacer = .waitRestart := by simpa using waits
    rw [State.takeRestart_resumes waiting (by simpa using noTrip) (by simpa using noStrain)] at silent
    refine ⟨fun takeover => ?halts, fun serves timed => ?settles, fun serves untimed => ?opens⟩
    case halts =>
      have unstaged : s.panelFrame.staged = none := by simpa using shaped.unstaged_of_waits waits
      rw [State.resume_in_takeover waiting (by simpa using takeover), State.haltPacer_of_unstaged unstaged,
        State.panelFrame_paced_silent] at silent
      exact silent
    case settles =>
      rw [State.resume_outside_takeover waiting (by simpa using serves), State.enterSettleA_of_pos (by simpa using timed),
        State.panelFrame_paced_silent, State.inTenths, s.panelFrame_now, s.panelFrame_profile] at silent
      exact silent
    case opens =>
      rw [State.resume_outside_takeover waiting (by simpa using serves), State.enterSettleA_of_zero (by simpa using untimed),
        State.panelFrame_paced_silent, State.inTenths, s.panelFrame_now, s.panelFrame_profile] at silent
      exact silent

end Sys2Proof.Restart
end

section
/-! PROOF. What a STARTED does (R124): it writes one record, and of that record nothing that the plans, the figures or the CLEAR condition
read, so that only the car's summary follows it at the end of its event. -/

namespace Sys2Proof.Machine

/-! ### A car whose run goes on -/

theorem Motion.isOut_of_supervised {m : Motion} (h : m.supervised = true) : m.isOut = false := by
  cases m <;> simp_all [Motion.supervised, Motion.isOut]

/-- The run of a car goes on: d is c but for the state of its run, under the same permit, and for which of the motion states of an admitted
run it is in. -/
structure Car.GoesOn (c d : Car) : Prop where
  permit : d.run.map Run.permit = c.run.map Run.permit
  was : c.motion.supervised = true
  moves : d.motion.supervised = true
  rest : d = { c with run := d.run, motion := d.motion }

namespace Car.GoesOn

variable {c d : Car}

theorem step (goes : c.GoesOn d) : d.step = c.step := by rw [goes.rest]

theorem member (goes : c.GoesOn d) : d.member = c.member := by rw [goes.rest]

theorem powered (goes : c.GoesOn d) : d.powered = c.powered := by rw [goes.rest]

theorem unpermitted (goes : c.GoesOn d) : d.unpermitted = c.unpermitted := by rw [goes.rest]

theorem clearView (goes : c.GoesOn d) : d.clearView = c.clearView := by
  have running : d.run.isSome = c.run.isSome := by simpa using congrArg Option.isSome goes.permit
  have moving : d.moving = c.moving := by rw [goes.rest]
  simp only [Car.clearView, running, moving, goes.unpermitted]

theorem isOut (goes : c.GoesOn d) : d.motion.isOut = c.motion.isOut :=
  (Motion.isOut_of_supervised goes.moves).trans (Motion.isOut_of_supervised goes.was).symm

theorem ne_still (goes : c.GoesOn d) : d.motion ≠ .still := fun still => by
  simpa [still, Motion.supervised] using goes.moves

/-- Neither record is of a car that is OUT for want of power, whose idle load does not count (R58). -/
theorem ne_unpowered (goes : c.GoesOn d) : d.motion ≠ .out .unpowered ∧ c.motion ≠ .out .unpowered :=
  ⟨fun out => by simpa [out, Motion.supervised] using goes.moves, fun out => by simpa [out, Motion.supervised] using goes.was⟩

end Car.GoesOn

/-! ### Nothing but the summary follows it -/

/-- A sum over the configured cars, where the record written counts as the one before it. -/
theorem State.sumCars_putCar {s : State} {n : CarName} {c d : Car} {f : CarName → Car → Nat} (car : s.car n = some c)
    (same : f n d = f n c) : (s.putCar n d).sumCars f = s.sumCars f := by
  unfold State.sumCars
  refine congrArg List.sum (List.map_congr_left fun m _ => ?_)
  rw [State.car_putCar]
  by_cases written : n = m
  · subst written; simp [car, same]
  · simp [written]

/-- What is read of each record, where it is the same of the record written as of the one before it. -/
theorem State.map_car_putCar {α : Type} {s : State} {n : CarName} {c d : Car} {f : Car → α} (car : s.car n = some c)
    (same : f d = f c) (m : CarName) : ((s.putCar n d).car m).map f = (s.car m).map f := by
  rw [State.car_putCar]
  by_cases written : n = m
  · subst written; simp [car, same]
  · simp [written]

/-- An event whose change the CLEAR condition does not read sends no CLEAR (R152). -/
theorem State.clearAfter_putCar {s : State} {n : CarName} {c d : Car} (car : s.car n = some c) (same : d.clearView = c.clearView) :
    s.clearAfter (s.putCar n d) = s.putCar n d := by
  by_cases pre : s.phase = .preTransfer
  · have unmoved : s.clearMoved (s.putCar n d) = false := by
      simp [State.clearMoved, pre, State.map_car_putCar car same]
    simp [State.clearAfter, unmoved]
  · rcases s.clearAfter_cases (s.putCar n d) with same | ⟨_, -, sending, -⟩
    · exact same
    · exact absurd sending pre

/-- No LOAD follows an event that leaves its figures (R63). -/
theorem State.announceLoad_of_figures {s t : State} (figures : (t.usable, t.bl, t.ml, t.rl) = (s.usable, s.bl, s.ml, s.rl)) :
    s.announceLoad false t = t := by
  simp only [Prod.mk.injEq] at figures
  simp [State.announceLoad, figures]

section GoesOn
variable {s : State} {n : CarName} {c d : Car} (car : s.car n = some c) (goes : c.GoesOn d)
include car goes

theorem State.idleLoad_goesOn : (s.putCar n d).idleLoad = s.idleLoad :=
  State.sumCars_putCar car (by simp [goes.powered, goes.ne_unpowered])

theorem State.motorLoad_goesOn : (s.putCar n d).motorLoad = s.motorLoad := by
  refine congrArg (_ + ·) (State.sumCars_putCar car ?_)
  have permit := goes.permit
  cases was : c.run <;> cases is : d.run <;> simp_all [goes.unpermitted]

theorem State.regenLoad_goesOn : (s.putCar n d).regenLoad = s.regenLoad := by
  refine congrArg (_ + ·) (State.sumCars_putCar car ?_)
  have permit := goes.permit
  cases was : c.run <;> cases is : d.run <;> simp_all

/-- The figures are formed of the permit, not of the state of its run (R58, R59). -/
theorem State.fresh_goesOn (fresh : s.Fresh) : (s.putCar n d).Fresh := by
  have formed : (s.putCar n d).refresh = s.refresh.putCar n d := by
    simp only [State.refresh, State.baseLoad, State.idleLoad_goesOn car goes, State.motorLoad_goesOn car goes,
      State.regenLoad_goesOn car goes]
    rfl
  unfold State.Fresh at fresh ⊢
  rw [formed, fresh]

/-- The examination of R64 finds the figures it found before, and no profile that has become active. -/
theorem State.examined_goesOn (fresh : s.Fresh) :
    s.examined (s.putCar n d) = s.putCar n d ∧ s.limitsMoved (s.putCar n d) = false ∧ s.activated (s.putCar n d) = false := by
  have queue : s.settleQueue (s.putCar n d) = s.putCar n d := if_pos rfl
  have formed : (s.putCar n d).refresh = s.putCar n d := State.fresh_goesOn car goes fresh
  exact ⟨by rw [State.examined, queue, formed], by simp [State.limitsMoved], by simp [State.activated]⟩

theorem State.settle_goesOn (fresh : s.Fresh) : s.settle (s.putCar n d) = s.putCar n d := by
  obtain ⟨examined, limits, activated⟩ := State.examined_goesOn car goes fresh
  simp only [State.settle, State.examineChange, examined, limits, activated, Bool.or_self, Bool.false_eq_true, if_false]
  exact if_pos rfl

theorem State.episodeEnds_goesOn (fresh : s.Fresh) : s.episodeEnds (s.putCar n d) = false := by
  obtain ⟨examined, limits, activated⟩ := State.examined_goesOn car goes fresh
  simp [State.episodeEnds, State.settle_goesOn car goes fresh, examined, limits, activated]

/-- The recall reads steps and who is OUT (R146). -/
theorem State.endRecall_goesOn : s.endRecall (s.putCar n d) = s.putCar n d := by
  have views : ∀ m, (s.putCar n d).recallView m = s.recallView m :=
    State.map_car_putCar car (by rw [goes.step, goes.isOut])
  by_cases inRecall : s.phase = .recall <;> simp [State.endRecall, views, inRecall]

/-- No place in a service set becomes free, and no car becomes PARKED or SHUT (R148). -/
theorem State.serveGroups_goesOn : s.serveGroups false none (s.putCar n d) = s.putCar n d := by
  have free : ∀ m, s.freesPlace (s.putCar n d) m = false := fun m => by
    unfold State.freesPlace
    rw [State.car_putCar]
    by_cases written : n = m
    · subst written; simp [car, goes.step, goes.member]
    · cases s.car m <;> simp [written]
  unfold State.serveGroups
  split
  · next serves =>
    have undue : ∀ g, s.fillDue (s.putCar n d) false none g = false := fun g => by
      simp [State.fillDue, free, show s.phase = .service from serves]
    exact State.foldl_id (fun g => by simp [undue]) _
  · rfl

omit car in
/-- A release for fire is of a STILL car (R148). -/
theorem State.releaseFires_goesOn : s.releaseFires (s.putCar n d) = s.putCar n d := by
  refine State.forCars_id fun m => ?_
  by_cases written : n = m
  · subst written; simp [State.fireRelease, State.carIs, goes.ne_still]
  · simp [State.car_putCar_ne s written]

theorem State.follow_goesOn : s.follow false none (s.putCar n d) = s.putCar n d := by
  rw [State.follow, State.endRecall_goesOn car goes, State.serveGroups_goesOn car goes, State.releaseFires_goesOn goes]

/-- Where the run of one car goes on, the event ends with the car's summary and the decisions it makes due. -/
theorem State.endEvent_goesOn (fresh : s.Fresh) :
    s.endEvent (s.putCar n d) = s.queueAdmission (s.queueSelection (s.announceCars (s.putCar n d))) := by
  have formed : (s.putCar n d).refresh = s.putCar n d := State.fresh_goesOn car goes fresh
  have load : s.announceLoad false (s.announceCars (s.putCar n d)) = s.announceCars (s.putCar n d) :=
    State.announceLoad_of_figures
      (congrArg (fun t : State => (t.usable, t.bl, t.ml, t.rl)) (s.announceCars_silent (s.putCar n d)) :)
  simp only [State.endEvent, State.clearAfter_putCar car goes.clearView, State.episodeEnds_goesOn car goes fresh,
    State.settle_goesOn car goes fresh, State.follow_goesOn car goes, formed, load]

end GoesOn

/-! ### The summary -/

/-- What is sent to the panel for one of the cars is there when all have been gone through. -/
theorem State.mem_outbox_forCars {s : State} {n : CarName} {m : OutMsg} {f : CarName → State → State} (up : s.panelLink.up = true)
    (keeps : ∀ k (a : State), a.Keeps (f k a)) (sends : ∀ a : State, f n a = a.toPanel m) :
    (.link .panel, m) ∈ (s.forCars f).outbox := by
  obtain ⟨before, after, split⟩ := List.append_of_mem (List.mem_finRange n)
  have first := State.Keeps.foldl (fun a k => keeps k a) before s
  have last := State.Keeps.foldl (fun a k => keeps k a) after
  rw [State.forCars, carNames, split, List.foldl_append, List.foldl_cons, sends]
  refine (last _).sent.subset (State.mem_toPanel ?_ m)
  exact (congrArg (fun c : Control => c.panelLink.up) first.control).trans up

/-- The panel receives the summary of a car where it differs from what it was (R39). -/
theorem State.mem_announceCars {s0 s : State} {n : CarName} {d : Car} (up : s.panelLink.up = true) (car : s.car n = some d)
    (differs : (s0.car n).map (s0.summary n) ≠ some (s.summary n d)) :
    (.link .panel, .car (s.summary n d)) ∈ (s0.announceCars s).outbox := by
  refine State.mem_outbox_forCars (n := n) up (fun k a => ?keeps) fun a => ?sends
  case keeps =>
    split
    · exact .ite (.refl a) (a.toPanel_keeps _)
    · exact .refl a
  case sends => simp [car, differs]

theorem State.queueSelection_outbox (s0 s : State) : (s0.queueSelection s).outbox = s.outbox := rfl

theorem State.queueAdmission_outbox (s0 s : State) : (s0.queueAdmission s).outbox = s.outbox := rfl

theorem State.car_of_silent {s t : State} (same : t.silent = s.silent) (n : CarName) : t.car n = s.car n :=
  State.car_congr (congrArg State.cars same) n

theorem State.summary_of_silent {s t : State} (same : t.silent = s.silent) (n : CarName) (c : Car) : t.summary n c = s.summary n c :=
  (congrArg (fun u : State => u.summary n c) same :)

/-- The state of a run shows in its car's summary (R39). -/
theorem State.summary_permit {s : State} {n : CarName} {c d : Car} {r : Run} (car : s.car n = some c) (run : c.run = some r) :
    (s.summary n d).permit = some (r.permit.cls, r.state.code) := by
  simp [State.summary, State.livePermit, State.runOf, car, run]

/-- Where the run of one car goes on, the end of the event leaves the record written. -/
theorem State.endEvent_goesOn_silent {s : State} {n : CarName} {c d : Car} (car : s.car n = some c) (goes : c.GoesOn d)
    (fresh : s.Fresh) : (s.endEvent (s.putCar n d)).silent = (s.putCar n d).silent := by
  rw [State.endEvent_goesOn car goes fresh, State.queueAdmission_silent, State.queueSelection_silent, State.announceCars_silent]

/-- Where the run of one car goes on, the panel receives its summary, if it differs from what it was (R39). -/
theorem State.endEvent_goesOn_tells {s : State} {n : CarName} {c d : Car} (car : s.car n = some c) (goes : c.GoesOn d)
    (fresh : s.Fresh) (differs : (s.car n).map (s.summary n) ≠ some ((s.putCar n d).summary n d)) (up : s.panelLink.up = true)
    {y : Car} (left : (s.endEvent (s.putCar n d)).car n = some y) :
    (.link .panel, .car ((s.endEvent (s.putCar n d)).summary n y)) ∈ (s.endEvent (s.putCar n d)).outbox := by
  have sent : (s.endEvent (s.putCar n d)).outbox = (s.announceCars (s.putCar n d)).outbox := by
    rw [State.endEvent_goesOn car goes fresh, State.queueAdmission_outbox, State.queueSelection_outbox]
  have silent := State.endEvent_goesOn_silent car goes fresh
  generalize s.endEvent (s.putCar n d) = t at left sent silent ⊢
  have record : t.car n = some d := (State.car_of_silent silent n).trans (s.car_putCar_same n d)
  obtain rfl : d = y := Option.some.inj (record.symm.trans left)
  rw [State.summary_of_silent silent, sent]
  exact State.mem_announceCars up (s.car_putCar_same n d) differs

/-! ### STARTED taken by the Run Supervisor (R124) -/

/-- The record of a car whose permit in STARTED-WAIT becomes RUNNING with the run timer's end, by R124. -/
def Car.started (c : Car) (r : Run) (ends : Nat) : Car :=
  { c with run := some { r with state := .running ends }, motion := if c.motion = .starting then .running else c.motion }

theorem Car.started_goesOn {c : Car} {r : Run} (ends : Nat) (run : c.run = some r) (moves : c.motion.supervised = true) :
    c.GoesOn (c.started r ends) where
  permit := by simp [Car.started, run]
  was := moves
  moves := by
    show Motion.supervised (if c.motion = .starting then .running else c.motion) = true
    split
    · rfl
    · exact moves
  rest := rfl

/-- The summary of a car whose run has started differs from the one before: in the permit's state code. -/
theorem Car.started_summary_ne {s : State} {n : CarName} (c : Car) {r : Run} {e : Nat} (car : s.car n = some c) (run : c.run = some r)
    (waits : r.state = .startedWait e) (ends : Nat) :
    (s.car n).map (s.summary n) ≠ some ((s.putCar n (c.started r ends)).summary n (c.started r ends)) := by
  intro same
  rw [car, Option.map_some, Option.some.injEq] at same
  have permits := congrArg CarSummary.permit same
  rw [State.summary_permit car run, State.summary_permit (s.car_putCar_same n _) rfl] at permits
  simp [waits, RunState.code] at permits

theorem State.takeStarted_of_waits {s : State} {n : CarName} {c : Car} {r : Run} {e : Nat} (car : s.car n = some c)
    (run : c.run = some r) (waits : r.state = .startedWait e) :
    s.takeStarted n = s.putCar n (c.started r (s.inTenths r.limit)) := by
  have held : s.runOf n = some r := by simp [State.runOf, car, run]
  simp only [State.takeStarted, held, waits, State.runStarted, State.modCar_some car, Car.started]

theorem State.takeStarted_of_waits_not {s : State} {n : CarName} {c : Car} {r : Run} (car : s.car n = some c) (run : c.run = some r)
    (other : ∀ e, r.state ≠ .startedWait e) : s.takeStarted n = s := by
  have held : s.runOf n = some r := by simp [State.runOf, car, run]
  unfold State.takeStarted
  cases state : r.state with
  | startedWait e => exact absurd state (other e)
  | running e => simp only [held, state]
  | grace why e => simp only [held, state]

/-! ### The frame on a group link, and the command -/

/-- The state in which a message on a group link is taken (R159). -/
def State.groupFrame (s : State) (g : GroupNo) : State := s.begin.goodFrame (.group g)

/-- s with the record that a good frame gives the group's link: UP, with the full silence time of 3.0 s (R159). -/
def State.groupHeard (s : State) (g : GroupNo) : State := { s with groupLinks := s.groupLinks.set g ⟨true, some (s.now + 60)⟩ }

theorem State.groupFrame_silent (s : State) (g : GroupNo) : (s.groupFrame g).silent = (s.groupHeard g).silent := by
  obtain ⟨o, d, heard⟩ := s.begin.goodFrame_sends (.group g) (.inl (by simp))
  rw [State.groupFrame, heard]; rfl

@[simp] theorem State.groupFrame_car (s : State) (g : GroupNo) (n : CarName) : (s.groupFrame g).car n = s.car n :=
  s.begin.goodFrame_car (.group g) n

@[simp] theorem State.groupFrame_panelLink (s : State) (g : GroupNo) : (s.groupFrame g).panelLink = s.panelLink :=
  s.begin.goodFrame_link_ne (l := .group g) (k := .panel) (by simp)

theorem State.groupFrame_inTenths (s : State) (g : GroupNo) (k : Nat) : (s.groupFrame g).inTenths k = s.now + k * 2 :=
  congrArg (· + k * 2) (s.begin.goodFrame_now (.group g))

theorem State.fresh_groupFrame {s : State} (fresh : s.Fresh) (g : GroupNo) : (s.groupFrame g).Fresh :=
  State.fresh_goodFrame (State.fresh_begin fresh) (.group g)

/-- Two states that differ in nothing but what was sent still do so when the same record is written in both. -/
theorem State.putCar_silent {s t : State} (same : t.silent = s.silent) (n : CarName) (c : Car) :
    (t.putCar n c).silent = (s.putCar n c).silent := congrArg (fun u : State => u.putCar n c) same

theorem carNoOf_of_toNat {b : Byte} {c : CarNo} (names : b.toNat = c.val) : carNoOf b = some c := by
  simp [carNoOf, names]

/-- A STARTED of a configured car. -/
theorem exec_started {s : State} {g : GroupNo} {b : Byte} {c : CarNo} {x : Car} (names : b.toNat = c.val)
    (car : s.car (carOf g c) = some x) :
    exec (.started g b) s = .next ((s.groupFrame g).endEvent ((s.groupFrame g).takeStarted (carOf g c))) := by
  have configured : (s.groupFrame g).configured (carOf g c) = true := by simp [State.configured, car]
  show execStarted g b s = _
  simp only [State.groupFrame] at configured
  simp only [execStarted, onCar, onLink, carNoOf_of_toNat names, configured, if_true, State.groupFrame]

end Sys2Proof.Machine

/-! ### The obligation -/

namespace Sys2Proof.Supervision
open Machine

/-- Settles O28: the record that the report writes is of a car whose run goes on, so that its summary alone follows it; a run that has
started is left alone, and nothing follows at all. -/
theorem startedRuns : Obligations.StartedRuns := by
  intro s g b c x r fresh names car run moves
  have carF : (s.groupFrame g).car (carOf g c) = some x := by simpa using car
  have freshF := State.fresh_groupFrame fresh g
  refine ⟨_, exec_started names car, ?waiting, ?other⟩
  case waiting =>
    rintro ⟨e, waits⟩
    have goes := Car.started_goesOn (s.now + r.limit * 2) run moves
    rw [State.takeStarted_of_waits carF run waits, State.groupFrame_inTenths]
    refine ⟨?record, fun up y left => ?summary⟩
    case record =>
      exact (State.endEvent_goesOn_silent carF goes freshF).trans (State.putCar_silent (s.groupFrame_silent g) _ _)
    case summary =>
      exact State.endEvent_goesOn_tells carF goes freshF (x.started_summary_ne carF run waits _) (by simpa using up) left
  case other =>
    intro other
    rw [State.takeStarted_of_waits_not carF run other, (State.Paces.refl _).endEvent freshF]
    exact s.groupFrame_silent g

end Sys2Proof.Supervision
end
